-- ==== Sys2Proof/Word.lean ====
section
/-! DEFINITION. The word types of the machine (00_scope.md R9: every quantity is unsigned; 10_state.md R22, R26; 30_encoding.md R91). -/

namespace Sys2Proof

/-- A 4-bit field of an instruction word, or a register or key index 0..15 (30_encoding.md R91). -/
abbrev Nibble := BitVec 4

/-- The width of a V register, of a timer and of a memory cell (00_scope.md R7, `REG_W`). -/
abbrev Byte := BitVec 8

/-- A 12-bit address immediate `NNN` (30_encoding.md R91, R94). -/
abbrev Addr12 := BitVec 12

/-- The width of I, PC, a stack entry and an instruction word (00_scope.md R7, `ADDR_W`; 30_encoding.md R90). -/
abbrev Word := BitVec 16

/-- `zext_16` of a byte (00_scope.md R9). -/
abbrev zextByte (b : Byte) : Word := b.setWidth 16

/-- `zext_16` of an address immediate (30_encoding.md R94). -/
abbrev zextAddr (nnn : Addr12) : Word := nnn.setWidth 16

/-- `zext_8` of a key index (46_input.md R252). -/
abbrev zextNibble (k : Nibble) : Byte := k.setWidth 8

end Sys2Proof
end

