-- ==== Sys2Proof/Syntax.lean ====
section
/-! DEFINITION. The 34 instructions (30_encoding.md R100), one constructor per row of the opcode table, in the table's order. -/

namespace Sys2Proof

/-- The instruction set of 30_encoding.md R100. `x`, `y` index V registers, `nn` is an unsigned byte, `nnn` an absolute
12-bit address, `n` a row count 0..15; every value of each field's type is legal (R94), so an instruction holds no operand
that a further check would refuse. -/
inductive Instr where
  /-- 00E0, CLS: clear the display (44_display.md R211). -/
  | cls
  /-- 00EE, RET: return from a call (41_flow.md R141). -/
  | ret
  /-- 1NNN, JP NNN (41_flow.md R142). -/
  | jp (nnn : Addr12)
  /-- 2NNN, CALL NNN (41_flow.md R143). -/
  | call (nnn : Addr12)
  /-- 3XNN, SE Vx, NN (41_flow.md R147). -/
  | seImm (x : Nibble) (nn : Byte)
  /-- 4XNN, SNE Vx, NN (41_flow.md R148). -/
  | sneImm (x : Nibble) (nn : Byte)
  /-- 5XY0, SE Vx, Vy (41_flow.md R149). -/
  | seReg (x y : Nibble)
  /-- 6XNN, LD Vx, NN (42_alu.md R161). -/
  | ldImm (x : Nibble) (nn : Byte)
  /-- 7XNN, ADD Vx, NN (42_alu.md R162). -/
  | addImm (x : Nibble) (nn : Byte)
  /-- 8XY0, LD Vx, Vy (42_alu.md R164). -/
  | ldReg (x y : Nibble)
  /-- 8XY1, OR Vx, Vy (42_alu.md R165). -/
  | orReg (x y : Nibble)
  /-- 8XY2, AND Vx, Vy (42_alu.md R166). -/
  | andReg (x y : Nibble)
  /-- 8XY3, XOR Vx, Vy (42_alu.md R167). -/
  | xorReg (x y : Nibble)
  /-- 8XY4, ADD Vx, Vy (42_alu.md R170). -/
  | addReg (x y : Nibble)
  /-- 8XY5, SUB Vx, Vy (42_alu.md R172). -/
  | subReg (x y : Nibble)
  /-- 8XY6, SHR Vx; `y` is in the encoding and ignored (42_alu.md R174, 30_encoding.md R101). -/
  | shr (x y : Nibble)
  /-- 8XY7, SUBN Vx, Vy (42_alu.md R176). -/
  | subnReg (x y : Nibble)
  /-- 8XYE, SHL Vx; `y` is in the encoding and ignored (42_alu.md R178, 30_encoding.md R101). -/
  | shl (x y : Nibble)
  /-- 9XY0, SNE Vx, Vy (41_flow.md R150). -/
  | sneReg (x y : Nibble)
  /-- ANNN, LD I, NNN (43_index_memory.md R191). -/
  | ldI (nnn : Addr12)
  /-- BNNN, JP V0, NNN (41_flow.md R146). -/
  | jpV0 (nnn : Addr12)
  /-- CXNN, RND Vx, NN (42_alu.md R181). -/
  | rnd (x : Nibble) (nn : Byte)
  /-- DXYN, DRW Vx, Vy, N (44_display.md R214). -/
  | drw (x y n : Nibble)
  /-- EX9E, SKP Vx (46_input.md R246). -/
  | skp (x : Nibble)
  /-- EXA1, SKNP Vx (46_input.md R247). -/
  | sknp (x : Nibble)
  /-- FX07, LD Vx, DT (45_timers.md R231). -/
  | ldVxDt (x : Nibble)
  /-- FX0A, LD Vx, K (46_input.md R252). -/
  | ldVxK (x : Nibble)
  /-- FX15, LD DT, Vx (45_timers.md R232). -/
  | ldDtVx (x : Nibble)
  /-- FX18, LD ST, Vx (45_timers.md R233). -/
  | ldStVx (x : Nibble)
  /-- FX1E, ADD I, Vx (43_index_memory.md R192). -/
  | addI (x : Nibble)
  /-- FX29, LD F, Vx (43_index_memory.md R194). -/
  | ldF (x : Nibble)
  /-- FX33, LD B, Vx (43_index_memory.md R196). -/
  | ldB (x : Nibble)
  /-- FX55, LD [I], Vx (43_index_memory.md R198). -/
  | ldMemVx (x : Nibble)
  /-- FX65, LD Vx, [I] (43_index_memory.md R200). -/
  | ldVxMem (x : Nibble)
  deriving DecidableEq, Repr

end Sys2Proof
end

