-- ==== Sys2Proof/Decode.lean ====
section
/-! DEFINITION. Decoding and encoding of the 16-bit instruction words (30_encoding.md R90 to R104). The decoder reads the word
field by field as R95 does; the encoder lays the fields out by the formats of R93. The two are written apart, and the table
of R100 (Sys2Proof/WellFormed.lean) is a third account of the same encodings. -/

namespace Sys2Proof

/-- Why bytes are no instruction. -/
inductive DecodeError where
  /-- The word matches no row of the opcode map (30_encoding.md R104); the machine raises InvalidInstruction on it. -/
  | invalidInstruction (op : Word)
  /-- Fewer than two bytes were given (30_encoding.md R90: each instruction is exactly 2 bytes). The fetch always gives two. -/
  | truncated
  deriving DecidableEq, Repr

/-- `op[15:12]` (30_encoding.md R91). -/
def fieldFamily (op : Word) : Nibble := op.extractLsb' 12 4

/-- `X = op[11:8]` (30_encoding.md R91; 90_conflicts.md C1). -/
def fieldX (op : Word) : Nibble := op.extractLsb' 8 4

/-- `Y = op[7:4]` (30_encoding.md R91; 90_conflicts.md C1). -/
def fieldY (op : Word) : Nibble := op.extractLsb' 4 4

/-- `N = op[3:0]` (30_encoding.md R91). -/
def fieldN (op : Word) : Nibble := op.extractLsb' 0 4

/-- `NN = op[7:0]` (30_encoding.md R91). -/
def fieldNN (op : Word) : Byte := op.extractLsb' 0 8

/-- `NNN = op[11:0]` (30_encoding.md R91). -/
def fieldNNN (op : Word) : Addr12 := op.extractLsb' 0 12

/-- Family 8: the low nibble selects the ALU sub-op (30_encoding.md R95). -/
def decodeAlu (op : Word) : Except DecodeError Instr :=
  match (fieldN op).toNat with
  | 0x0 => .ok (.ldReg (fieldX op) (fieldY op))
  | 0x1 => .ok (.orReg (fieldX op) (fieldY op))
  | 0x2 => .ok (.andReg (fieldX op) (fieldY op))
  | 0x3 => .ok (.xorReg (fieldX op) (fieldY op))
  | 0x4 => .ok (.addReg (fieldX op) (fieldY op))
  | 0x5 => .ok (.subReg (fieldX op) (fieldY op))
  | 0x6 => .ok (.shr (fieldX op) (fieldY op))
  | 0x7 => .ok (.subnReg (fieldX op) (fieldY op))
  | 0xE => .ok (.shl (fieldX op) (fieldY op))
  | _ => .error (.invalidInstruction op)

/-- Family E: the low byte selects the sub-op (30_encoding.md R95). -/
def decodeKey (op : Word) : Except DecodeError Instr :=
  match (fieldNN op).toNat with
  | 0x9E => .ok (.skp (fieldX op))
  | 0xA1 => .ok (.sknp (fieldX op))
  | _ => .error (.invalidInstruction op)

/-- Family F: the low byte selects the sub-op (30_encoding.md R95). -/
def decodeMisc (op : Word) : Except DecodeError Instr :=
  match (fieldNN op).toNat with
  | 0x07 => .ok (.ldVxDt (fieldX op))
  | 0x0A => .ok (.ldVxK (fieldX op))
  | 0x15 => .ok (.ldDtVx (fieldX op))
  | 0x18 => .ok (.ldStVx (fieldX op))
  | 0x1E => .ok (.addI (fieldX op))
  | 0x29 => .ok (.ldF (fieldX op))
  | 0x33 => .ok (.ldB (fieldX op))
  | 0x55 => .ok (.ldMemVx (fieldX op))
  | 0x65 => .ok (.ldVxMem (fieldX op))
  | _ => .error (.invalidInstruction op)

/-- The decode function of 30_encoding.md R95, total on all 65536 words; it reads nothing but the word
(40_fetch_dispatch.md R123). Family 0 matches all sixteen bits; families 5 and 9 require `N = 0`. -/
def decode (op : Word) : Except DecodeError Instr :=
  match (fieldFamily op).toNat with
  | 0x0 => if op = 0x00E0#16 then .ok .cls else if op = 0x00EE#16 then .ok .ret else .error (.invalidInstruction op)
  | 0x1 => .ok (.jp (fieldNNN op))
  | 0x2 => .ok (.call (fieldNNN op))
  | 0x3 => .ok (.seImm (fieldX op) (fieldNN op))
  | 0x4 => .ok (.sneImm (fieldX op) (fieldNN op))
  | 0x5 => if fieldN op = 0#4 then .ok (.seReg (fieldX op) (fieldY op)) else .error (.invalidInstruction op)
  | 0x6 => .ok (.ldImm (fieldX op) (fieldNN op))
  | 0x7 => .ok (.addImm (fieldX op) (fieldNN op))
  | 0x8 => decodeAlu op
  | 0x9 => if fieldN op = 0#4 then .ok (.sneReg (fieldX op) (fieldY op)) else .error (.invalidInstruction op)
  | 0xA => .ok (.ldI (fieldNNN op))
  | 0xB => .ok (.jpV0 (fieldNNN op))
  | 0xC => .ok (.rnd (fieldX op) (fieldNN op))
  | 0xD => .ok (.drw (fieldX op) (fieldY op) (fieldN op))
  | 0xE => decodeKey op
  | 0xF => decodeMisc op
  | _ => .error (.invalidInstruction op)

/-- The instruction word of two bytes, most significant byte first (20_memory.md R62; 30_encoding.md R90). -/
def wordOfBytes (hi lo : Byte) : Word := hi ++ lo

/-- The instruction at the head of a byte sequence, with the bytes that follow it (30_encoding.md R90: two bytes, no other
length). -/
def decodeBytes : List Byte → Except DecodeError (Instr × List Byte)
  | hi :: lo :: rest =>
    match decode (wordOfBytes hi lo) with
    | .ok i => .ok (i, rest)
    | .error e => .error e
  | _ => .error .truncated

/-- Format NNN (30_encoding.md R93): family, then the 12-bit address. -/
def formatNNN (family : Nibble) (nnn : Addr12) : Word := family ++ nnn

/-- Formats XNN and XKK (30_encoding.md R93): family, X, then a byte (an immediate, or the fixed low byte). -/
def formatXNN (family x : Nibble) (nn : Byte) : Word := (family ++ x) ++ nn

/-- Format XYN (30_encoding.md R93): family, X, Y, then N (an operand in DXYN, else the fixed sub-op). -/
def formatXYN (family x y n : Nibble) : Word := (family ++ x) ++ (y ++ n)

/-- The word of an instruction, by the formats of 30_encoding.md R93 and the patterns of R100. -/
def encode : Instr → Word
  | .cls => 0x00E0#16
  | .ret => 0x00EE#16
  | .jp nnn => formatNNN 0x1#4 nnn
  | .call nnn => formatNNN 0x2#4 nnn
  | .seImm x nn => formatXNN 0x3#4 x nn
  | .sneImm x nn => formatXNN 0x4#4 x nn
  | .seReg x y => formatXYN 0x5#4 x y 0x0#4
  | .ldImm x nn => formatXNN 0x6#4 x nn
  | .addImm x nn => formatXNN 0x7#4 x nn
  | .ldReg x y => formatXYN 0x8#4 x y 0x0#4
  | .orReg x y => formatXYN 0x8#4 x y 0x1#4
  | .andReg x y => formatXYN 0x8#4 x y 0x2#4
  | .xorReg x y => formatXYN 0x8#4 x y 0x3#4
  | .addReg x y => formatXYN 0x8#4 x y 0x4#4
  | .subReg x y => formatXYN 0x8#4 x y 0x5#4
  | .shr x y => formatXYN 0x8#4 x y 0x6#4
  | .subnReg x y => formatXYN 0x8#4 x y 0x7#4
  | .shl x y => formatXYN 0x8#4 x y 0xE#4
  | .sneReg x y => formatXYN 0x9#4 x y 0x0#4
  | .ldI nnn => formatNNN 0xA#4 nnn
  | .jpV0 nnn => formatNNN 0xB#4 nnn
  | .rnd x nn => formatXNN 0xC#4 x nn
  | .drw x y n => formatXYN 0xD#4 x y n
  | .skp x => formatXNN 0xE#4 x 0x9E#8
  | .sknp x => formatXNN 0xE#4 x 0xA1#8
  | .ldVxDt x => formatXNN 0xF#4 x 0x07#8
  | .ldVxK x => formatXNN 0xF#4 x 0x0A#8
  | .ldDtVx x => formatXNN 0xF#4 x 0x15#8
  | .ldStVx x => formatXNN 0xF#4 x 0x18#8
  | .addI x => formatXNN 0xF#4 x 0x1E#8
  | .ldF x => formatXNN 0xF#4 x 0x29#8
  | .ldB x => formatXNN 0xF#4 x 0x33#8
  | .ldMemVx x => formatXNN 0xF#4 x 0x55#8
  | .ldVxMem x => formatXNN 0xF#4 x 0x65#8

/-- The bytes of a word as memory holds it, first the byte at the lower address (20_memory.md R62). -/
def bytesOfWord (op : Word) : List Byte := [op.extractLsb' 8 8, op.extractLsb' 0 8]

/-- The word that the opcode table's numbering calls `w`: an instruction has one 16-bit word, whose bit 0 is the table's bit
0; bits at and above `nbits` are 0. -/
def tableWord (nbits w : Nat) : Word := BitVec.ofNat 16 (w % 2 ^ nbits)

/-- The instruction the decoder reads from the bytes of a table word; none where the decoder refuses them. -/
def decodeTableWord (nbits w : Nat) : Option Instr :=
  match decodeBytes (bytesOfWord (tableWord nbits w)) with
  | .ok (i, _) => some i
  | .error _ => none

end Sys2Proof
end

