-- ==== Sys2Proof/Config.lean ====
section
/-! DEFINITION. What an implementation fixes and what it leaves free: the call-stack depth and the load address (00_scope.md
R7), and the random source (42_alu.md R180). The other parameters of R7 stand in Sys2Proof/Machine/Params.lean. -/

namespace Sys2Proof

/-- `STACK_DEPTH`, the call-stack capacity (00_scope.md R7; 10_state.md R27). -/
abbrev Config.stackDepth : Nat := 16

/-- `PROG_BASE`, the load address and the reset PC (00_scope.md R7). -/
abbrev Config.progBase : Nat := 0x200

/-- The random source of CXNN: `Config.draw8 k` is the byte the machine's `k`-th draw answers. It has no body, so nothing in
Lean can evaluate it or relate one draw to another (42_alu.md R180: "an input of the step, not state, and no law relates one
draw to another"). DESIGN CHOICE, log entry 1; safe. -/
opaque Config.draw8 : Nat → Byte

end Sys2Proof
end

