-- ==== Sys2Proof/Machine/Params.lean ====
section
/-! DEFINITION. The parameters of 00_scope.md R7 that the machine's operations read. -/

namespace Sys2Proof.Machine

/-- `MEM_SIZE`: addresses 0x000 to 0xFFF (00_scope.md R7; 20_memory.md R60). -/
def memSize : Nat := 4096

/-- `PC_FETCH_LIMIT`: a fetch at or above it raises OutOfBounds (00_scope.md R7; 40_fetch_dispatch.md R121; 90_conflicts.md
C8). -/
def pcFetchLimit : Nat := 4094

/-- `ROM_MAX`: the longest ROM `Load` accepts (00_scope.md R7; 47_host_interface.md R270). -/
def romMax : Nat := 3584

/-- `FONT_STRIDE`: the sprite of digit d is at `5 * d` (00_scope.md R7; 20_memory.md R66). -/
def fontStride : Nat := 5

/-- `FONT`: the 80 bytes of the digit sprites, digit 0 first, row 0 first (20_memory.md R66). -/
def font : List Byte :=
  [0xF0#8, 0x90#8, 0x90#8, 0x90#8, 0xF0#8] ++  -- 0
  [0x20#8, 0x60#8, 0x20#8, 0x20#8, 0x70#8] ++  -- 1
  [0xF0#8, 0x10#8, 0xF0#8, 0x80#8, 0xF0#8] ++  -- 2
  [0xF0#8, 0x10#8, 0xF0#8, 0x10#8, 0xF0#8] ++  -- 3
  [0x90#8, 0x90#8, 0xF0#8, 0x10#8, 0x10#8] ++  -- 4
  [0xF0#8, 0x80#8, 0xF0#8, 0x10#8, 0xF0#8] ++  -- 5
  [0xF0#8, 0x80#8, 0xF0#8, 0x90#8, 0xF0#8] ++  -- 6
  [0xF0#8, 0x10#8, 0x20#8, 0x40#8, 0x40#8] ++  -- 7
  [0xF0#8, 0x90#8, 0xF0#8, 0x90#8, 0xF0#8] ++  -- 8
  [0xF0#8, 0x90#8, 0xF0#8, 0x10#8, 0xF0#8] ++  -- 9
  [0xF0#8, 0x90#8, 0xF0#8, 0x90#8, 0x90#8] ++  -- A
  [0xE0#8, 0x90#8, 0xE0#8, 0x90#8, 0xE0#8] ++  -- B
  [0xF0#8, 0x80#8, 0x80#8, 0x80#8, 0xF0#8] ++  -- C
  [0xE0#8, 0x90#8, 0x90#8, 0x90#8, 0xE0#8] ++  -- D
  [0xF0#8, 0x80#8, 0xF0#8, 0x80#8, 0xF0#8] ++  -- E
  [0xF0#8, 0x80#8, 0xF0#8, 0x80#8, 0x80#8]     -- F

end Sys2Proof.Machine
end

