-- ==== Sys2Proof/Machine/State.lean ====
section
/-! DEFINITION. The state of the machine (10_state.md R20), the state after reset (10_state.md R40) and the reasons a step of
the MODEL can stop. The machine's own faults are no stop of the model: the spec says what they write (60_exceptions.md R300),
so they are next states with the fault latch set. -/

namespace Sys2Proof.Machine

/-- Memory as plain data: the cells that differ from their reset contents, addresses strictly rising
(Sys2Proof/Machine/Memory.lean says what an unlisted address reads as). -/
abbrev Memory := List Host.Cell

/-- The frame buffer: 32 rows of 64 one-bit pixels (10_state.md R33; 47_host_interface.md R276). -/
abbrev FrameBuffer := Vector (BitVec 64) 32

/-- The error kinds of 60_exceptions.md R290; their codes are in Sys2Proof/Machine/Ops.lean. -/
inductive ErrorKind where
  /-- An illegal word was decoded (60_exceptions.md R292); fatal. -/
  | invalidInstruction
  /-- 2NNN with a full stack (60_exceptions.md R294); fatal. -/
  | stackOverflow
  /-- 00EE with an empty stack (60_exceptions.md R295); fatal. -/
  | stackUnderflow
  /-- A fetch at or above the limit, an access beyond memory, a key index above 15 (60_exceptions.md R293); fatal. -/
  | outOfBounds
  /-- `Load` of too many bytes (60_exceptions.md R296); not fatal, never latched. -/
  | romTooLarge
  deriving DecidableEq, Repr

/-- The reasons a step of the model stops without a next state: NONE. Every fault of the machine (InvalidInstruction,
StackOverflow, StackUnderflow, OutOfBounds) has an entry the spec describes (60_exceptions.md R300) and is a next state with
the latch written; a halted machine's step is the unchanged state (40_fetch_dispatch.md R128). Nobody raises a `Fault`. -/
inductive Fault
  deriving DecidableEq, Repr

/-- The reasons the model gives an instruction no meaning. -/
inductive Refusal where
  /-- Raised only by an arm of `exec` whose instruction has no meaning yet; no arm of this model is such. Safe: a run stops
  where the hardware goes on. -/
  | notModelled (mnemonic : String)
  deriving DecidableEq, Repr

/-- The complete state of the core (10_state.md R20), and one field of the model's own, `draws`. -/
structure State where
  /-- `V[0..15]`; VF, the flag register, is `V[15]` (10_state.md R22, R24). -/
  v : Vector Byte 16
  /-- The index register `I` (10_state.md R26). -/
  i : Word
  /-- The program counter `PC` (10_state.md R29). -/
  pc : Word
  /-- The call stack `STK[0..STACK_DEPTH-1]`, oldest entry first (10_state.md R27). -/
  stk : Vector Word Config.stackDepth
  /-- `SP`, the number of stack entries in use, 0..STACK_DEPTH (10_state.md R27). -/
  sp : Fin (Config.stackDepth + 1)
  /-- `MEM[0..4095]` (20_memory.md R60). -/
  mem : Memory
  /-- `FB[0..31][0..63]` (10_state.md R33). -/
  fb : FrameBuffer
  /-- The delay timer `DT` (10_state.md R36). -/
  dt : Byte
  /-- The sound timer `ST` (10_state.md R36). -/
  st : Byte
  /-- `KEYS[0..15]`, true while the key is down (10_state.md R34). -/
  keys : Vector Bool 16
  /-- `KW_WAIT`: the FX0A at PC has begun and is waiting (10_state.md R37). -/
  kwWait : Bool
  /-- `KW_VALID`: a key-down edge has been captured since the wait began (10_state.md R37). -/
  kwValid : Bool
  /-- `KW_KEY`: the captured key, meaningful while `KW_VALID` (10_state.md R37). -/
  kwKey : Nibble
  /-- `HALT`: set by a fatal fault (10_state.md R39). -/
  halt : Bool
  /-- `FAULT_KIND`: the code of the fault that set `HALT` (10_state.md R39; 60_exceptions.md R291). -/
  faultKind : BitVec 3
  /-- `FAULT_PC`: the address of the instruction whose step faulted (10_state.md R39). -/
  faultPc : Word
  /-- `FAULT_OP`: the word that step fetched, 0x0000 for a fetch fault (10_state.md R39). -/
  faultOp : Word
  /-- The model's own counter of the draws CXNN has taken; `Config.draw8` is applied to it (log entry 1). -/
  draws : Nat
  deriving DecidableEq, Repr

/-- The state after `Reset`: the table of 10_state.md R40 (70_reset_and_hazards.md R330). No memory cell is listed: each reads
as its reset content. -/
def State.reset : State where
  v := Vector.replicate 16 0x00#8
  i := 0x0000#16
  pc := BitVec.ofNat 16 Config.progBase
  stk := Vector.replicate Config.stackDepth 0x0000#16
  sp := 0
  mem := []
  fb := Vector.replicate 32 0#64
  dt := 0x00#8
  st := 0x00#8
  keys := Vector.replicate 16 false
  kwWait := false
  kwValid := false
  kwKey := 0x0#4
  halt := false
  faultKind := 0#3
  faultPc := 0x0000#16
  faultOp := 0x0000#16
  draws := 0

end Sys2Proof.Machine
end

