-- ==== Sys2Proof/Machine/Memory.lean ====
section
/-! DEFINITION. Memory: what an unlisted cell reads as, the byte access primitives of 00_scope.md R12, ranges of bytes, and
the canonical form. -/

namespace Sys2Proof.Machine

/-- What an unlisted address reads as: its reset content (10_state.md R40), the font at 0x000..0x04F and 0x00 above. -/
def Memory.unlisted (a : Nat) : Byte := font.getD a 0x00#8

/-- The byte a cell list holds at an address, its reset content where no cell is listed. -/
def Memory.lookup : Memory → Nat → Byte
  | [], a => Memory.unlisted a
  | c :: m, a => if c.1 = a then c.2 else Memory.lookup m a

/-- Put a byte at an address, keeping the canonical form: storing the reset content removes the cell. -/
def Memory.store : Memory → Nat → Byte → Memory
  | [], a, b => if b = Memory.unlisted a then [] else [(a, b)]
  | c :: m, a, b =>
    if c.1 < a then c :: Memory.store m a b
    else if c.1 = a then (if b = Memory.unlisted a then m else (a, b) :: m)
    else if b = Memory.unlisted a then c :: m
    else (a, b) :: c :: m

/-- `MemRead(a, 1)` (00_scope.md R12): none where the access raises OutOfBounds. -/
def Memory.read? (m : Memory) (a : Nat) : Option Byte :=
  if a < memSize then some (Memory.lookup m a) else none

/-- `MemWrite(a, 1, v)` (00_scope.md R12): none where the access raises OutOfBounds. -/
def Memory.write? (m : Memory) (a : Nat) (b : Byte) : Option Memory :=
  if a < memSize then some (Memory.store m a b) else none

/-- The bytes at `a .. a + n - 1`, none if any lies beyond memory; addresses never wrap (20_memory.md R63, R70). No byte at
all is read, and nothing can be beyond memory, when `n = 0` (20_memory.md R71). -/
def Memory.readBytes? (m : Memory) (a : Nat) : Nat → Option (List Byte)
  | 0 => some []
  | n + 1 =>
    match Memory.read? m a, Memory.readBytes? m (a + 1) n with
    | some b, some bs => some (b :: bs)
    | _, _ => none

/-- Store bytes at `a`, `a + 1`, ... in ascending order, none if any lies beyond memory (20_memory.md R63, R70). -/
def Memory.writeBytes? (m : Memory) (a : Nat) : List Byte → Option Memory
  | [] => some m
  | b :: bs =>
    match Memory.write? m a b with
    | some m' => Memory.writeBytes? m' (a + 1) bs
    | none => none

/-- The canonical form: addresses strictly rising, all of them inside memory, no cell equal to its reset content. -/
abbrev Memory.wf (m : Memory) : Prop :=
  m.Pairwise (fun c d => c.1 < d.1) ∧ ∀ c ∈ m, c.1 < memSize ∧ c.2 ≠ Memory.unlisted c.1

end Sys2Proof.Machine
end

