-- ==== Sys2Proof/Machine/Ops.lean ====
section
/-! DEFINITION. The named operations over registers, the program counter, the call stack, the frame buffer, the timers, the
keys, the arbiter latch and the fault latch; the fetch; taking a fault and leaving the halted state; the frame of a step. -/

namespace Sys2Proof.Machine

/-- The three outcomes of a step over this machine's state. -/
abbrev Outcome := Host.Outcome State Fault Refusal

/-! ### V registers and I -/

/-- `V[r]` (10_state.md R22). -/
def State.getV (s : State) (r : Nibble) : Byte := s.v[r.toNat]'r.isLt

/-- `V[r] <- b` (10_state.md R22). -/
def State.setV (s : State) (r : Nibble) (b : Byte) : State := { s with v := s.v.set r.toNat b r.isLt }

/-- `V[0] <- bs[0]`, `V[1] <- bs[1]`, ...; the registers past the list keep their value (43_index_memory.md R200). -/
def State.loadV (s : State) (bs : List Byte) : State :=
  { s with v := Vector.ofFn fun k => bs.getD k.val s.v[k.val] }

/-- `V[0], .., V[x]` in index order (43_index_memory.md R198). -/
def State.firstV (s : State) (x : Nibble) : List Byte := s.v.toList.take (x.toNat + 1)

/-- `I <- w` (10_state.md R26). -/
def State.setI (s : State) (w : Word) : State := { s with i := w }

/-! ### Program counter -/

/-- `npc`, the advanced program counter `PC + 2` (40_fetch_dispatch.md R122). -/
def State.npc (s : State) : Word := s.pc + 2#16

/-- `pc <- w`. -/
def State.setPc (s : State) (w : Word) : State := { s with pc := w }

/-- Commit `PC <- npc` (40_fetch_dispatch.md R122). -/
def State.advance (s : State) : State := s.setPc s.npc

/-- A conditional skip: `PC <- npc + 2` when taken, else `PC <- npc` (41_flow.md R151). -/
def State.skipIf (s : State) (taken : Bool) : State := s.setPc (if taken then s.npc + 2#16 else s.npc)

/-! ### Call stack -/

/-- Push (10_state.md R27): `STK[SP] <- w; SP <- SP + 1`; none when all `STACK_DEPTH` entries are in use. -/
def State.push? (s : State) (w : Word) : Option State :=
  if h : s.sp.val < Config.stackDepth then
    some { s with stk := s.stk.set s.sp.val w h, sp := ⟨s.sp.val + 1, Nat.succ_lt_succ h⟩ }
  else none

/-- Pop (10_state.md R27): `STK[SP-1]`, and `SP <- SP - 1`; none on an empty stack. The popped entry is not erased
(41_flow.md R141). -/
def State.pop? (s : State) : Option (Word × State) :=
  if h : 0 < s.sp.val then
    some (s.stk[s.sp.val - 1]'(by have := s.sp.isLt; omega),
      { s with sp := ⟨s.sp.val - 1, by have := s.sp.isLt; omega⟩ })
  else none

/-! ### Memory and fetch -/

/-- Replace memory. -/
def State.setMem (s : State) (m : Memory) : State := { s with mem := m }

/-- The fetch (40_fetch_dispatch.md R121, R122): none when `PC >= 4094`, else `MEM[PC] ++ MEM[PC+1]`. -/
def State.fetch (s : State) : Option Word :=
  if s.pc.toNat < pcFetchLimit then
    match s.mem.read? s.pc.toNat, s.mem.read? (s.pc.toNat + 1) with
    | some hi, some lo => some (wordOfBytes hi lo)
    | _, _ => none
  else none

/-! ### Frame buffer -/

/-- Replace the frame buffer. -/
def State.setFb (s : State) (fb : FrameBuffer) : State := { s with fb := fb }

/-- The pixel at row `r mod 32`, column `c mod 64` (10_state.md R33; 44_display.md R213). Column 0 is the most significant
bit of its row (log entry 4). -/
def FrameBuffer.pixel (fb : FrameBuffer) (r c : Nat) : Bool :=
  (fb[r % 32]'(Nat.mod_lt _ (by decide))).getMsbD (c % 64)

/-- `FB[r mod 32][c mod 64] <- FB[r mod 32][c mod 64] xor 1` (44_display.md R213, R214). -/
def FrameBuffer.flip (fb : FrameBuffer) (r c : Nat) : FrameBuffer :=
  fb.set (r % 32) (fb[r % 32]'(Nat.mod_lt _ (by decide)) ^^^ BitVec.twoPow 64 (63 - c % 64)) (Nat.mod_lt _ (by decide))

/-- All pixels 0 (44_display.md R211). -/
def FrameBuffer.clear : FrameBuffer := Vector.replicate 32 0#64

/-! ### Timers -/

/-- `DT <- b` (45_timers.md R232). -/
def State.setDt (s : State) (b : Byte) : State := { s with dt := b }

/-- `ST <- b` (45_timers.md R233). -/
def State.setSt (s : State) (b : Byte) : State := { s with st := b }

/-! ### Keys and the input arbiter -/

/-- `KEYS[k]` (10_state.md R34). -/
def State.keyDown (s : State) (k : Nibble) : Bool := s.keys[k.toNat]'k.isLt

/-- `KEYS[k] <- d` (46_input.md R256, R258). -/
def State.setKey (s : State) (k : Nibble) (d : Bool) : State := { s with keys := s.keys.set k.toNat d k.isLt }

/-- FX0A at entry: `KW_WAIT <- 1; KW_VALID <- 0` (46_input.md R252). -/
def State.arm (s : State) : State := { s with kwWait := true, kwValid := false }

/-- `KW_WAIT <- 0; KW_VALID <- 0` (46_input.md R252; 47_host_interface.md R270). -/
def State.disarm (s : State) : State := { s with kwWait := false, kwValid := false }

/-- `KW_VALID <- 1; KW_KEY <- k` (46_input.md R256). -/
def State.capture (s : State) (k : Nibble) : State := { s with kwValid := true, kwKey := k }

/-! ### Random source -/

/-- One draw has been taken (42_alu.md R180; log entry 1). -/
def State.countDraw (s : State) : State := { s with draws := s.draws + 1 }

/-! ### Faults -/

/-- `code(K)` (60_exceptions.md R291). -/
def ErrorKind.code : ErrorKind → BitVec 3
  | .invalidInstruction => 1#3
  | .stackOverflow => 2#3
  | .stackUnderflow => 3#3
  | .outOfBounds => 4#3
  | .romTooLarge => 5#3

/-- The fault latch written, nothing else (60_exceptions.md R300; `latch` of 40_fetch_dispatch.md R130). -/
def State.latch (s : State) (k : ErrorKind) (op : Word) : State :=
  { s with halt := true, faultKind := k.code, faultPc := s.pc, faultOp := op }

/-- TAKING A FAULT, the one shared operation (`raise K`, 60_exceptions.md R300): none of the step's writes is committed, `HALT`
is set, the kind, the address of the instruction and the word are recorded. Control goes nowhere: PC stays. -/
def raise (k : ErrorKind) (op : Word) (s : State) : Outcome := .next (s.latch k op)

/-- LEAVING THE HALTED STATE: no instruction returns from a fault; the event `Reset` is the only exit (60_exceptions.md R308;
70_reset_and_hazards.md R330). Every field takes its reset value but the model's own counter of draws, which goes on, so that
the draws after a reset are related to none before it (log entry 1). -/
def State.doReset (s : State) : State := { State.reset with draws := s.draws }

/-! ### The step cycle -/

/-- The cycle of 40_fetch_dispatch.md R120 and R130, with its order of checks (60_exceptions.md R305): the halt check (R128),
the fetch bound (R121), the decode (R123), then the decoded instruction's effect, which `run` gives. A halted machine's step
changes nothing (R128); its result, the latched record, is read from the state (`State.stepResult`). -/
def cycle (run : Instr → State → Outcome) (s : State) : Outcome :=
  if s.halt then .next s
  else
    match s.fetch with
    | none => raise .outOfBounds 0x0000#16 s
    | some op =>
      match decode op with
      | .error _ => raise .invalidInstruction op s
      | .ok i => run i s

/-- The state that will fetch `op` next: `op` in the two bytes at PC. What a fetch needs and only that is changed beside: a
halted machine fetches nothing (40_fetch_dispatch.md R128), so its fault latch is cleared; no word can be fetched at or above
the limit (R121), so a PC there goes to the load address (log entry 5). -/
def State.placeWord (s : State) (op : Word) : State :=
  let pc := if s.pc.toNat < pcFetchLimit then s.pc else BitVec.ofNat 16 Config.progBase
  let m := (s.mem.writeBytes? pc.toNat (bytesOfWord op)).getD s.mem
  if s.halt then { s with mem := m, pc := pc, halt := false, faultKind := 0#3, faultPc := 0#16, faultOp := 0#16 }
  else { s with mem := m, pc := pc }

end Sys2Proof.Machine
end

