-- ==== Sys2Proof/Machine/Flags.lean ====
section
/-! DEFINITION. Every flag the machine computes (10_state.md R24): each is the byte 0x00 or 0x01 that goes to VF. Sums and
differences are taken on unbounded numbers and reduced modulo 256 (42_alu.md R163). -/

namespace Sys2Proof.Machine

/-- The index of VF (10_state.md R24). -/
def vf : Nibble := 0xF#4

/-- A flag as the byte VF holds, 0x00 or 0x01 (10_state.md R24). -/
def flagByte (b : Bool) : Byte := if b then 0x01#8 else 0x00#8

/-- `(a + b) mod 256` (42_alu.md R163). -/
def addMod (a b : Byte) : Byte := BitVec.ofNat 8 ((a.toNat + b.toNat) % 256)

/-- `(a - b) mod 256`: `a - b` when `a >= b`, else `a - b + 256` (42_alu.md R163). -/
def subMod (a b : Byte) : Byte := BitVec.ofNat 8 (if b.toNat ≤ a.toNat then a.toNat - b.toNat else a.toNat + 256 - b.toNat)

/-- 8XY4: 1 if `a + b > 255` (42_alu.md R170). -/
def carryFlag (a b : Byte) : Bool := decide (255 < a.toNat + b.toNat)

/-- 8XY5, 8XY7: 1 if `a > b`, strictly (42_alu.md R172, R176). -/
def greaterFlag (a b : Byte) : Bool := decide (b.toNat < a.toNat)

/-- 8XY6: the bit a right shift moves out, `a[0]` (42_alu.md R174). -/
def lowBitFlag (a : Byte) : Bool := a.getLsbD 0

/-- 8XYE: the bit a left shift moves out, `a[7]` (42_alu.md R178). -/
def highBitFlag (a : Byte) : Bool := a.getLsbD 7

/-- The commit of a flag-defining instruction: `V[X] <- result`, then `V[0xF] <- flag`, so that the flag remains when X = 0xF
(42_alu.md R168). -/
def State.setVFlag (s : State) (x : Nibble) (result : Byte) (flag : Bool) : State :=
  (s.setV x result).setV vf (flagByte flag)

end Sys2Proof.Machine
end

