-- ==== Sys2Proof/Machine/Alu.lean ====
section
/-! DEFINITION. Register load, add, the ALU family and random (42_alu.md). Every instruction here ends with `PC <- npc`, reads
its operands from the state the step began in (40_fetch_dispatch.md R125) and cannot fault (R160). -/

namespace Sys2Proof.Machine

/-- 6XNN (42_alu.md R161): `V[X] <- NN`. -/
def execLdImm (x : Nibble) (nn : Byte) (s : State) : Outcome := .next (s.setV x nn).advance

/-- 7XNN (42_alu.md R162): `V[X] <- (vx + NN) mod 256`, no flag. -/
def execAddImm (x : Nibble) (nn : Byte) (s : State) : Outcome := .next (s.setV x (addMod (s.getV x) nn)).advance

/-- 8XY0 (42_alu.md R164): `V[X] <- vy`. -/
def execLdReg (x y : Nibble) (s : State) : Outcome := .next (s.setV x (s.getV y)).advance

/-- 8XY1 (42_alu.md R165): `V[X] <- vx | vy`. -/
def execOrReg (x y : Nibble) (s : State) : Outcome := .next (s.setV x (s.getV x ||| s.getV y)).advance

/-- 8XY2 (42_alu.md R166): `V[X] <- vx & vy`. -/
def execAndReg (x y : Nibble) (s : State) : Outcome := .next (s.setV x (s.getV x &&& s.getV y)).advance

/-- 8XY3 (42_alu.md R167): `V[X] <- vx ^ vy`. -/
def execXorReg (x y : Nibble) (s : State) : Outcome := .next (s.setV x (s.getV x ^^^ s.getV y)).advance

/-- 8XY4 (42_alu.md R170): the sum modulo 256, VF the carry. -/
def execAddReg (x y : Nibble) (s : State) : Outcome :=
  .next (s.setVFlag x (addMod (s.getV x) (s.getV y)) (carryFlag (s.getV x) (s.getV y))).advance

/-- 8XY5 (42_alu.md R172): `vx - vy` modulo 256, VF = 1 exactly when `vx > vy`. -/
def execSubReg (x y : Nibble) (s : State) : Outcome :=
  .next (s.setVFlag x (subMod (s.getV x) (s.getV y)) (greaterFlag (s.getV x) (s.getV y))).advance

/-- 8XY6 (42_alu.md R174): `vx >> 1`, VF the bit shifted out; the Y field is ignored (30_encoding.md R101). -/
def execShr (x _y : Nibble) (s : State) : Outcome := .next (s.setVFlag x (s.getV x >>> 1) (lowBitFlag (s.getV x))).advance

/-- 8XY7 (42_alu.md R176): `vy - vx` modulo 256, VF = 1 exactly when `vy > vx`. -/
def execSubnReg (x y : Nibble) (s : State) : Outcome :=
  .next (s.setVFlag x (subMod (s.getV y) (s.getV x)) (greaterFlag (s.getV y) (s.getV x))).advance

/-- 8XYE (42_alu.md R178): `vx << 1` modulo 256, VF the bit shifted out; the Y field is ignored (30_encoding.md R101). -/
def execShl (x _y : Nibble) (s : State) : Outcome := .next (s.setVFlag x (s.getV x <<< 1) (highBitFlag (s.getV x))).advance

/-- CXNN for a given draw `r` (42_alu.md R181): `V[X] <- r & NN`. One draw is taken. -/
def rndWith (r : Byte) (x : Nibble) (nn : Byte) (s : State) : State := (s.setV x (r &&& nn)).countDraw.advance

/-- CXNN (42_alu.md R181): the draw is the random source's next answer, a free value (R180; log entry 1). -/
def execRnd (x : Nibble) (nn : Byte) (s : State) : Outcome := .next (rndWith (Config.draw8 s.draws) x nn s)

end Sys2Proof.Machine
end

