-- ==== Sys2Proof/Machine/Operands.lean ====
section
/-! DEFINITION. The operand forms: memory ranges addressed through I (43_index_memory.md R193), the key index of a register
(46_input.md R248), the digit sprite address (43_index_memory.md R194) and the decimal digits (43_index_memory.md R196). A V
register operand is `State.getV`; immediates are the instruction's own fields. -/

namespace Sys2Proof.Machine

/-- The `n` bytes at I, I + 1, ..., without wrap-around; none where one of them is beyond memory (43_index_memory.md R193;
20_memory.md R70, R71). -/
def State.bytesAtI? (s : State) (n : Nat) : Option (List Byte) := s.mem.readBytes? s.i.toNat n

/-- The bytes stored at I, I + 1, ..., without wrap-around; none where one of them is beyond memory (43_index_memory.md
R193; 20_memory.md R70). I is not modified. -/
def State.storeAtI? (s : State) (bs : List Byte) : Option State :=
  (s.mem.writeBytes? s.i.toNat bs).map s.setMem

/-- The key a register's byte names; none above 15 (46_input.md R248). -/
def keyIndex? (b : Byte) : Option Nibble := if b.toNat < 16 then some (BitVec.ofNat 4 b.toNat) else none

/-- `5 * zext_16(b)`, at most 1275 (43_index_memory.md R194). -/
def digitAddress (b : Byte) : Word := BitVec.ofNat 16 (fontStride * b.toNat)

/-- Hundreds, tens and units of a byte, one digit a byte, most significant first (43_index_memory.md R196). -/
def bcdDigits (b : Byte) : List Byte :=
  [BitVec.ofNat 8 (b.toNat / 100), BitVec.ofNat 8 (b.toNat / 10 % 10), BitVec.ofNat 8 (b.toNat % 10)]

end Sys2Proof.Machine
end

