-- ==== Sys2Proof/Machine/Display.lean ====
section
/-! DEFINITION. The sprite XOR compositor and the display instructions (44_display.md). -/

namespace Sys2Proof.Machine

/-- One sprite bit (44_display.md R214, R216): bit `j` of the row, left to right, is `b[7 - j]`; a 1 flips the pixel at
(row r, column x + j) and collides when that pixel was lit (R215). -/
def drawBit (r x : Nat) (b : Byte) (acc : FrameBuffer × Bool) (j : Nat) : FrameBuffer × Bool :=
  if b.getLsbD (7 - j) then (acc.1.flip r (x + j), acc.2 || acc.1.pixel r (x + j)) else acc

/-- One sprite row, `j` from 0 to 7 (44_display.md R214). -/
def drawRow (r x : Nat) (b : Byte) (acc : FrameBuffer × Bool) : FrameBuffer × Bool :=
  (List.range 8).foldl (drawBit r x b) acc

/-- The sprite rows from frame row `r` down; coordinates wrap where a pixel is addressed (44_display.md R213, R214). -/
def drawRows (r x : Nat) : List Byte → FrameBuffer × Bool → FrameBuffer × Bool
  | [], acc => acc
  | b :: bs, acc => drawRows (r + 1) x bs (drawRow r x b acc)

/-- The compositor's one operation `draw(x, y, spriteBytes)` (44_display.md R212): the new frame buffer and the collision. -/
def draw (x y : Byte) (sprite : List Byte) (fb : FrameBuffer) : FrameBuffer × Bool :=
  drawRows y.toNat x.toNat sprite (fb, false)

/-- 00E0 (44_display.md R211): every pixel 0. -/
def execCls (s : State) : Outcome := .next (s.setFb FrameBuffer.clear).advance

/-- DXYN (44_display.md R214): draw `MEM[I..I+N-1]` at (`V[X]`, `V[Y]`), VF the collision; OutOfBounds when a sprite byte
lies beyond memory. With N = 0 nothing is read, nothing changes and VF = 0. -/
def execDrw (x y n : Nibble) (s : State) : Outcome :=
  match s.bytesAtI? n.toNat with
  | some sprite =>
    let d := draw (s.getV x) (s.getV y) sprite s.fb
    .next ((s.setFb d.1).setV vf (flagByte d.2)).advance
  | none => raise .outOfBounds (encode (.drw x y n)) s

end Sys2Proof.Machine
end

