-- ==== Sys2Proof/Machine/Flow.lean ====
section
/-! DEFINITION. Control transfer (41_flow.md): return, jump, call, indexed jump, the conditional skips. None writes a V
register, I, memory, the frame buffer or a timer (R140). -/

namespace Sys2Proof.Machine

/-- 00EE (41_flow.md R141): pop the PC; StackUnderflow on an empty stack. -/
def execRet (s : State) : Outcome :=
  match s.pop? with
  | some (w, t) => .next (t.setPc w)
  | none => raise .stackUnderflow (encode .ret) s

/-- 1NNN (41_flow.md R142): `pc <- zext_16(NNN)`. -/
def execJp (nnn : Addr12) (s : State) : Outcome := .next (s.setPc (zextAddr nnn))

/-- 2NNN (41_flow.md R143): push `npc`, then jump; StackOverflow on a full stack. -/
def execCall (nnn : Addr12) (s : State) : Outcome :=
  match s.push? s.npc with
  | some t => .next (t.setPc (zextAddr nnn))
  | none => raise .stackOverflow (encode (.call nnn)) s

/-- BNNN (41_flow.md R146): `pc <- zext_16(NNN) + zext_16(V[0])`, not reduced to 12 bits. -/
def execJpV0 (nnn : Addr12) (s : State) : Outcome := .next (s.setPc (zextAddr nnn + zextByte (s.getV 0x0#4)))

/-- 3XNN (41_flow.md R147): skip if `V[X] = NN`. -/
def execSeImm (x : Nibble) (nn : Byte) (s : State) : Outcome := .next (s.skipIf (s.getV x == nn))

/-- 4XNN (41_flow.md R148): skip if `V[X] != NN`. -/
def execSneImm (x : Nibble) (nn : Byte) (s : State) : Outcome := .next (s.skipIf (s.getV x != nn))

/-- 5XY0 (41_flow.md R149): skip if `V[X] = V[Y]`. -/
def execSeReg (x y : Nibble) (s : State) : Outcome := .next (s.skipIf (s.getV x == s.getV y))

/-- 9XY0 (41_flow.md R150): skip if `V[X] != V[Y]`. -/
def execSneReg (x y : Nibble) (s : State) : Outcome := .next (s.skipIf (s.getV x != s.getV y))

end Sys2Proof.Machine
end

