-- ==== Sys2Proof/Machine/IndexMemory.lean ====
section
/-! DEFINITION. Index register and memory transfer (43_index_memory.md). Every instruction here ends with `PC <- npc`; none
writes VF as a flag, none modifies I but the three that set it (R190, R193). -/

namespace Sys2Proof.Machine

/-- ANNN (43_index_memory.md R191): `I <- zext_16(NNN)`. -/
def execLdI (nnn : Addr12) (s : State) : Outcome := .next (s.setI (zextAddr nnn)).advance

/-- FX1E (43_index_memory.md R192): `I <- (I + zext_16(vx)) mod 65536`, no flag. -/
def execAddI (x : Nibble) (s : State) : Outcome := .next (s.setI (s.i + zextByte (s.getV x))).advance

/-- FX29 (43_index_memory.md R194): `I <- 5 * zext_16(vx)`. -/
def execLdF (x : Nibble) (s : State) : Outcome := .next (s.setI (digitAddress (s.getV x))).advance

/-- FX33 (43_index_memory.md R196): the decimal digits of `vx` to `MEM[I..I+2]`; OutOfBounds when `I + 2 > 0xFFF`. -/
def execLdB (x : Nibble) (s : State) : Outcome :=
  match s.storeAtI? (bcdDigits (s.getV x)) with
  | some t => .next t.advance
  | none => raise .outOfBounds (encode (.ldB x)) s

/-- FX55 (43_index_memory.md R198): `V[0]..V[X]` to `MEM[I..I+X]`; OutOfBounds when `I + X > 0xFFF`. -/
def execLdMemVx (x : Nibble) (s : State) : Outcome :=
  match s.storeAtI? (s.firstV x) with
  | some t => .next t.advance
  | none => raise .outOfBounds (encode (.ldMemVx x)) s

/-- FX65 (43_index_memory.md R200): `MEM[I..I+X]` to `V[0]..V[X]`; OutOfBounds when `I + X > 0xFFF`. -/
def execLdVxMem (x : Nibble) (s : State) : Outcome :=
  match s.bytesAtI? (x.toNat + 1) with
  | some bs => .next (s.loadV bs).advance
  | none => raise .outOfBounds (encode (.ldVxMem x)) s

end Sys2Proof.Machine
end

