-- ==== Sys2Proof/Machine/Input.lean ====
section
/-! DEFINITION. The key instructions and the blocking read (46_input.md). None writes a flag, I, memory, the frame buffer or a
timer (R245). -/

namespace Sys2Proof.Machine

/-- EX9E (46_input.md R246): skip if key `vx` is down; OutOfBounds for `vx > 15`. -/
def execSkp (x : Nibble) (s : State) : Outcome :=
  match keyIndex? (s.getV x) with
  | some k => .next (s.skipIf (s.keyDown k))
  | none => raise .outOfBounds (encode (.skp x)) s

/-- EXA1 (46_input.md R247): skip if key `vx` is up; OutOfBounds for `vx > 15`. -/
def execSknp (x : Nibble) (s : State) : Outcome :=
  match keyIndex? (s.getV x) with
  | some k => .next (s.skipIf (!s.keyDown k))
  | none => raise .outOfBounds (encode (.sknp x)) s

/-- FX0A (46_input.md R252). Entry: the wait begins, PC not advanced. Still waiting: nothing changes. A captured edge: the key
goes to `V[X]`, the latch returns to IDLE and PC advances, once. -/
def execLdVxK (x : Nibble) (s : State) : Outcome :=
  if s.kwWait then
    if s.kwValid then .next ((s.setV x (zextNibble s.kwKey)).disarm).advance
    else .next s
  else .next s.arm

end Sys2Proof.Machine
end

