-- ==== Sys2Proof/Machine/Timers.lean ====
section
/-! DEFINITION. The timer instructions (45_timers.md). Each ends with `PC <- npc`, writes no flag and cannot fault (R230). -/

namespace Sys2Proof.Machine

/-- FX07 (45_timers.md R231): `V[X] <- DT`. -/
def execLdVxDt (x : Nibble) (s : State) : Outcome := .next (s.setV x s.dt).advance

/-- FX15 (45_timers.md R232): `DT <- vx`. -/
def execLdDtVx (x : Nibble) (s : State) : Outcome := .next (s.setDt (s.getV x)).advance

/-- FX18 (45_timers.md R233): `ST <- vx`. -/
def execLdStVx (x : Nibble) (s : State) : Outcome := .next (s.setSt (s.getV x)).advance

end Sys2Proof.Machine
end

