-- ==== Sys2Proof/Machine/Step.lean ====
section
/-! DEFINITION. One step of the machine: the event `Step` (40_fetch_dispatch.md R120 to R130, 47_host_interface.md R272). -/

namespace Sys2Proof.Machine

/-- The event `Step`: the cycle of 40_fetch_dispatch.md R130 over the instruction meanings. -/
def step (s : State) : Host.Outcome State Fault Refusal := cycle exec s

/-- The state whose next step fetches the opcode-table word `w` of `nbits` bits (log entry 5). -/
def State.withFetchWord (s : State) (nbits w : Nat) : State := s.placeWord (tableWord nbits w)

end Sys2Proof.Machine
end

