-- ==== Sys2Proof/Machine/Events.lean ====
section
/-! DEFINITION. The host interface (47_host_interface.md R265): every event and read of the core, as functions of the state,
and `applyEvent`, which says of each what it does and what it answers. A run of the core is a list of events in one total
order (R266); nothing here fixes how the agents' events interleave. -/

namespace Sys2Proof.Machine

/-- The result of a `Step` (40_fetch_dispatch.md R129): `ok`, or the fault record. -/
inductive StepResult where
  | ok
  | fault (kind : BitVec 3) (pc op : Word)
  deriving DecidableEq, Repr

/-- The result of the `Step` that left the state `t`: `HALT` is set exactly when it raised or was already halted, and the
record stands in the latch (40_fetch_dispatch.md R129, R130; 47_host_interface.md R279). -/
def State.stepResult (t : State) : StepResult := if t.halt then .fault t.faultKind t.faultPc t.faultOp else .ok

/-- One timer's decrement: a counter at 0 stays at 0 (45_timers.md R234). -/
def decrement (b : Byte) : Byte := if 0 < b.toNat then b - 1#8 else b

/-- `Tick` (45_timers.md R234): each timer that is not zero counts down by one. -/
def tick (s : State) : State := (s.setDt (decrement s.dt)).setSt (decrement s.st)

/-- `Press(k)` (46_input.md R256): a down-transition sets the key, and is captured when an FX0A waits and has captured none; a
press of a key that is down changes nothing. -/
def press (k : Nibble) (s : State) : State :=
  if s.keyDown k then s
  else if s.kwWait && !s.kwValid then (s.setKey k true).capture k
  else s.setKey k true

/-- `Release(k)` (46_input.md R258). -/
def release (k : Nibble) (s : State) : State := s.setKey k false

/-- `Load(bytes)` (47_host_interface.md R270, R271): the bytes go to 0x200 on and the arbiter to IDLE; none, and no change,
when there are more than 3584. -/
def load? (rom : List Byte) (s : State) : Option State :=
  if rom.length ≤ romMax then (s.mem.writeBytes? Config.progBase rom).map fun m => (s.setMem m).disarm else none

/-- `ReadDisplay` (47_host_interface.md R276): `FB[r][c]`, rows top to bottom, each row's columns left to right. -/
def readDisplay (s : State) : List (List Bool) :=
  (List.range 32).map fun r => (List.range 64).map fun c => s.fb.pixel r c

/-- `ReadRegisters` (47_host_interface.md R278): `V[0]` to `V[15]`. -/
def readRegisters (s : State) : List Byte := s.v.toList

/-- The output `st_value`, equal to ST at all times (45_timers.md R238). -/
def stValue (s : State) : Byte := s.st

/-- `Run(n)` (47_host_interface.md R273): up to `n` steps, stopping after the first that answers a fault; `Run(0)` does nothing
and answers `ok`, or the latched fault when halted. It is no atomic event, so it is not an `Event`: other events may fall
between its steps. -/
def run : Nat → State → Host.Outcome (State × StepResult) Fault Refusal
  | 0, s => .next (s, s.stepResult)
  | n + 1, s =>
    match step s with
    | .next t => if t.halt then .next (t, t.stepResult) else run n t
    | .fault r => .fault r
    | .refused r => .refused r

/-- The atomic events and reads of 47_host_interface.md R265. -/
inductive Event where
  /-- The host's `Reset` (70_reset_and_hazards.md R330). -/
  | reset
  /-- The host's `Load(bytes)` (47_host_interface.md R270). -/
  | load (rom : List Byte)
  /-- The driver's `Step` (47_host_interface.md R272). -/
  | step
  /-- The clock source's `Tick` (45_timers.md R234). -/
  | tick
  /-- The input collaborator's `Press(k)` (46_input.md R256). -/
  | press (k : Nibble)
  /-- The input collaborator's `Release(k)` (46_input.md R258). -/
  | release (k : Nibble)
  /-- The frame consumer's `ReadDisplay` (47_host_interface.md R276). -/
  | readDisplay
  /-- The host's `ReadRegisters` (47_host_interface.md R278). -/
  | readRegisters
  deriving DecidableEq, Repr

/-- What an event answers to the agent that issued it (47_host_interface.md R265, R270, R271, R276 to R279). -/
inductive Response where
  /-- The event answers nothing. -/
  | silent
  /-- An accepted `Load`. -/
  | loaded
  /-- A rejected `Load`: its kind only (47_host_interface.md R279). -/
  | error (kind : ErrorKind)
  /-- The result of a `Step`. -/
  | stepped (r : StepResult)
  /-- The rows of the display. -/
  | display (rows : List (List Bool))
  /-- The V registers. -/
  | registers (bytes : List Byte)
  deriving DecidableEq, Repr

/-- One event on the core (47_host_interface.md R265, R266): the state it leaves and what it answers. -/
def applyEvent (e : Event) (s : State) : Host.Outcome (State × Response) Fault Refusal :=
  match e with
  | .reset => .next (s.doReset, .silent)
  | .load rom =>
    match load? rom s with
    | some t => .next (t, .loaded)
    | none => .next (s, .error .romTooLarge)
  | .step =>
    match step s with
    | .next t => .next (t, .stepped t.stepResult)
    | .fault r => .fault r
    | .refused r => .refused r
  | .tick => .next (tick s, .silent)
  | .press k => .next (press k s, .silent)
  | .release k => .next (release k s, .silent)
  | .readDisplay => .next (s, .display (readDisplay s))
  | .readRegisters => .next (s, .registers (readRegisters s))

end Sys2Proof.Machine
end

