-- ==== Sys2Proof/Machine/Runs.lean ====
section
/-! DEFINITION. Runs of the core: its events in one total order (47_host_interface.md R266), and what the agents owe it over a
run (R268). No number of steps, and no time, stands between two ticks (45_timers.md R235; 70_reset_and_hazards.md R350). -/

namespace Sys2Proof.Machine

/-- The events of a list, one after another, each seeing exactly the effects of those before it (47_host_interface.md R266);
what they answer is dropped. -/
def runEvents : List Event → State → Outcome
  | [], s => .next s
  | e :: es, s =>
    match applyEvent e s with
    | .next (t, _) => runEvents es t
    | .fault r => .fault r
    | .refused r => .refused r

/-- The endless run of the events `sched 0`, `sched 1`, ... through the states `trace 0`, `trace 1`, ...: each event leads from
its state to the next (47_host_interface.md R266). Which agent issues the `n`-th event is for `sched` to say; any order is a
run. -/
def IsRun (sched : Nat → Event) (trace : Nat → State) : Prop :=
  ∀ n, ∃ r, applyEvent (sched n) (trace n) = .next (trace (n + 1), r)

/-- The duty of the clock source, as fairness alone: ticks keep coming, whatever state the core is in, a waiting FX0A and a
halted core included, and however many other events fall between two of them (47_host_interface.md R268; U5 of
93_implementation_defined.md). No other agent owes an event: the host may stop issuing `Step`, and no key need ever be pressed
(log entry 8). -/
def TickFair (sched : Nat → Event) : Prop := ∀ n, ∃ m, n ≤ m ∧ sched m = .tick

/-- A run of the core as the spec has it: it starts from the state after `Reset` (70_reset_and_hazards.md R331), its events are
those of any interleaving (R350), and the clock source does its duty (47_host_interface.md R268). -/
structure CoreRun (sched : Nat → Event) (trace : Nat → State) : Prop where
  start : trace 0 = State.reset
  events : IsRun sched trace
  ticks : TickFair sched

end Sys2Proof.Machine
end

