-- ==== Sys2Proof/Safety.lean ====
section
/-! DEFINITION. The terms claims are made in: what a step may change (the frame), a fault taken, the invariant of the machine,
and the geometry of a sprite. -/

namespace Sys2Proof.Machine

/-! ### Frames -/

/-- The pieces of state a frame speaks of (10_state.md R20). -/
inductive Part where
  | v (r : Nibble)
  | i
  | pc
  | stk (k : Nat)
  | sp
  | mem (a : Nat)
  | fb
  | dt
  | st
  | key (k : Nibble)
  | kwWait
  | kwValid
  | kwKey
  | latch
  | draws
  deriving DecidableEq, Repr

/-- The pieces named in a list. -/
def only (ps : List Part) (p : Part) : Prop := p ∈ ps

/-- Every piece of state outside `w` is the same in `t` as in `s` (40_fetch_dispatch.md R126); memory is compared byte by byte,
through the machine's read of one byte. -/
structure UnchangedBut (w : Part → Prop) (s t : State) : Prop where
  v : ∀ r, ¬ w (.v r) → t.getV r = s.getV r
  i : ¬ w .i → t.i = s.i
  pc : ¬ w .pc → t.pc = s.pc
  stk : ∀ k, (h : k < Config.stackDepth) → ¬ w (.stk k) → t.stk[k] = s.stk[k]
  sp : ¬ w .sp → t.sp = s.sp
  mem : ∀ a, ¬ w (.mem a) → t.mem.read? a = s.mem.read? a
  fb : ¬ w .fb → t.fb = s.fb
  dt : ¬ w .dt → t.dt = s.dt
  st : ¬ w .st → t.st = s.st
  key : ∀ k, ¬ w (.key k) → t.keyDown k = s.keyDown k
  kwWait : ¬ w .kwWait → t.kwWait = s.kwWait
  kwValid : ¬ w .kwValid → t.kwValid = s.kwValid
  kwKey : ¬ w .kwKey → t.kwKey = s.kwKey
  latch : ¬ w .latch →
    t.halt = s.halt ∧ t.faultKind = s.faultKind ∧ t.faultPc = s.faultPc ∧ t.faultOp = s.faultOp
  draws : ¬ w .draws → t.draws = s.draws

/-- `t` is `s` after a fault of the given code (60_exceptions.md R291, R300): the latch holds the code, the PC of the
instruction and the word, and nothing else has changed. -/
def TakesFault (kind : BitVec 3) (op : Word) (s t : State) : Prop :=
  t.halt = true ∧ t.faultKind = kind ∧ t.faultPc = s.pc ∧ t.faultOp = op ∧ UnchangedBut (only [.latch]) s t

/-! ### The register an instruction names as its ordinary destination -/

/-- The X field of the instructions that write `V[X]` as their ordinary destination; FX65 writes `V[0]` to `V[X]`, hence VF
only when X = 0xF (10_state.md R24). -/
def xDestination? : Instr → Option Nibble
  | .ldImm x _ | .addImm x _ | .ldReg x _ | .orReg x _ | .andReg x _ | .xorReg x _ => some x
  | .addReg x _ | .subReg x _ | .shr x _ | .subnReg x _ | .shl x _ => some x
  | .rnd x _ | .ldVxDt x | .ldVxK x | .ldVxMem x => some x
  | .cls | .ret | .jp _ | .call _ | .seImm _ _ | .sneImm _ _ | .seReg _ _ | .sneReg _ _ => none
  | .ldI _ | .jpV0 _ | .drw _ _ _ | .skp _ | .sknp _ => none
  | .ldDtVx _ | .ldStVx _ | .addI _ | .ldF _ | .ldB _ | .ldMemVx _ => none

/-- The six instructions that define a flag (10_state.md R24). -/
def definesFlag : Instr → Bool
  | .addReg _ _ | .subReg _ _ | .shr _ _ | .subnReg _ _ | .shl _ _ | .drw _ _ _ => true
  | .cls | .ret | .jp _ | .call _ | .seImm _ _ | .sneImm _ _ | .seReg _ _ | .sneReg _ _ => false
  | .ldImm _ _ | .addImm _ _ | .ldReg _ _ | .orReg _ _ | .andReg _ _ | .xorReg _ _ => false
  | .ldI _ | .jpV0 _ | .rnd _ _ | .skp _ | .sknp _ | .ldVxDt _ | .ldVxK _ | .ldDtVx _ | .ldStVx _ => false
  | .addI _ | .ldF _ | .ldB _ | .ldMemVx _ | .ldVxMem _ => false

/-! ### Sprites -/

/-- The sprite of a DXYN in state `s` has a 1 bit that falls on the pixel at row `r`, column `c`: bit `7 - j` of the byte at
`I + k`, for a row `k < N`, with `r = (V[Y] + k) mod 32` and `c = (V[X] + j) mod 64` (44_display.md R213, R214, R216). -/
def SpriteCovers (s : State) (x y n : Nibble) (r c : Nat) : Prop :=
  ∃ k j b, k < n.toNat ∧ j < 8 ∧ s.mem.read? (s.i.toNat + k) = some b ∧ b.getLsbD (7 - j) = true ∧
    r = ((s.getV y).toNat + k) % 32 ∧ c = ((s.getV x).toNat + j) % 64

/-! ### The invariant -/

/-- The largest PC any rule can produce is 0x10FE (10_state.md R31). -/
def State.pcBounded (s : State) : Prop := s.pc.toNat ≤ 0x10FE

/-- The stack entries in use are return addresses some 2NNN pushed, at most 4095 (41_flow.md R141, R143). -/
def State.stackBounded (s : State) : Prop :=
  ∀ k, (h : k < Config.stackDepth) → k < s.sp.val → (s.stk[k]).toNat ≤ 4095

/-- `KW_VALID = 1` implies `KW_WAIT = 1` (10_state.md R37). -/
def State.arbiterCoherent (s : State) : Prop := s.kwValid = true → s.kwWait = true

/-- While an FX0A waits, the core runs and the instruction at PC is an FX0A (46_input.md R253). -/
def State.waitsAtKeyRead (s : State) : Prop :=
  s.kwWait = true → s.halt = false ∧ ∃ op x, s.fetch = some op ∧ decode op = .ok (.ldVxK x)

/-- The fault record is zero while the core runs and holds one of the four fatal codes while it is halted (10_state.md R39;
60_exceptions.md R291). -/
def State.latchCoherent (s : State) : Prop :=
  (s.halt = false → s.faultKind = 0#3 ∧ s.faultPc = 0#16 ∧ s.faultOp = 0#16) ∧
  (s.halt = true → 1 ≤ s.faultKind.toNat ∧ s.faultKind.toNat ≤ 4)

/-- The invariant of the machine. -/
structure State.Inv (s : State) : Prop where
  mem : s.mem.wf
  pc : s.pcBounded
  stack : s.stackBounded
  arbiter : s.arbiterCoherent
  waiting : s.waitsAtKeyRead
  latch : s.latchCoherent

end Sys2Proof.Machine
end

