-- ==== Sys2Proof/Certificates/Slice0/Obligations.lean ====
section
/-! DEFINITION. The statements about the machine, drawn from the numbered rules of spec/. Where a statement rests on a passage
the spec marks as its own decision (D<n> of 92_eei_decisions.md) or derivation, its docstring says so. -/

open Sys2Proof Sys2Proof.Machine

/-! ### Encoding -/

/-- Every instruction's word decodes to that instruction, with every operand at every value (30_encoding.md R93 to R100). -/
def Obligations.DecodeOfEncode : Prop := ∀ i : Instr, decode (encode i) = .ok i

/-- A word that decodes is the word of the instruction it decodes to: no bit is dropped (30_encoding.md R91 to R101). -/
def Obligations.EncodeOfDecode : Prop := ∀ (op : Word) (i : Instr), decode op = .ok i → encode i = op

/-- The decode function and the opcode map agree: a decoded word selects its instruction's row of the map and no other row,
and a refused word selects none (30_encoding.md R95, R100; strictness is the spec's decision D9). -/
def Obligations.DecodeFollowsOpcodeMap : Prop :=
  ∀ op : Word,
    (∀ i, decode op = .ok i → i.row ∈ opcodeTable ∧ ∀ r ∈ opcodeTable, r.selects op = true ↔ r = i.row) ∧
    (∀ e, decode op = .error e → e = .invalidInstruction op ∧ ∀ r ∈ opcodeTable, r.selects op = false)

/-- Words of each family, written out from the patterns of 30_encoding.md R100 and the source's own examples (95 X8). -/
def Obligations.SampleWordsDecode : Prop :=
  decode 0x00E0#16 = .ok .cls ∧ decode 0x1200#16 = .ok (.jp 0x200#12) ∧ decode 0x332A#16 = .ok (.seImm 0x3#4 0x2A#8) ∧
  decode 0x6103#16 = .ok (.ldImm 0x1#4 0x03#8) ∧ decode 0x8014#16 = .ok (.addReg 0x0#4 0x1#4) ∧
  decode 0xA300#16 = .ok (.ldI 0x300#12) ∧ decode 0xD125#16 = .ok (.drw 0x1#4 0x2#4 0x5#4) ∧
  decode 0xE19E#16 = .ok (.skp 0x1#4) ∧ decode 0xF318#16 = .ok (.ldStVx 0x3#4) ∧
  decode 0xFF0A#16 = .ok (.ldVxK 0xF#4)

/-- The Y field of 8XY6 and 8XYE has no effect (30_encoding.md R101; 42_alu.md R174, R178). -/
def Obligations.ShiftIgnoresY : Prop :=
  ∀ (x y y' : Nibble) (s : State),
    exec (.shr x y) s = exec (.shr x y') s ∧ exec (.shl x y) s = exec (.shl x y') s

/-! ### The step cycle and faults -/

/-- When the two bytes at PC, the first the high one, decode to an instruction, a step of a running machine below the fetch
limit is that instruction's effect, and nothing is added around it (20_memory.md R62; 40_fetch_dispatch.md R122). -/
def Obligations.StepRunsDecodedInstruction : Prop :=
  ∀ (s : State) (hi lo : Byte) (i : Instr), s.halt = false → s.pc.toNat < 4094 →
    s.mem.read? s.pc.toNat = some hi → s.mem.read? (s.pc.toNat + 1) = some lo →
    decode (hi ++ lo) = .ok i → step s = exec i s

/-- A fetch with `PC >= 4094` raises OutOfBounds with the word recorded as 0x0000, whatever memory holds, and PC = 4093 is
still fetched (40_fetch_dispatch.md R121; the literal is kept by the spec's decision D22). -/
def Obligations.FetchLimitFaults : Prop :=
  (∀ s : State, s.halt = false → 4094 ≤ s.pc.toNat → ∃ t, step s = .next t ∧ TakesFault 4#3 0x0000#16 s t) ∧
  (∀ (s : State) (hi lo : Byte), s.pc.toNat = 4093 → s.mem.read? 4093 = some hi → s.mem.read? 4094 = some lo →
    s.fetch = some (hi ++ lo))

/-- Decode yields the instruction whose row the word selects, its fields those of the word (the word is its encoding), and the
step is that instruction's effect; a word that selects no row raises InvalidInstruction with the address of the word
and the word (40_fetch_dispatch.md R123; 30_encoding.md R95, R104). That every word outside the patterns of families 0, 5 and 9
is illegal is the spec's decision D9, the code 1 its decision D5, that nothing else changes its decision D4 (log entry 3). -/
def Obligations.DecodeOrInvalidInstruction : Prop :=
  ∀ (s : State) (op : Word), s.halt = false → s.fetch = some op →
    ((∃ r ∈ opcodeTable, r.selects op = true) →
      ∃ i, decode op = .ok i ∧ i.row.selects op = true ∧ encode i = op ∧ step s = exec i s) ∧
    ((∀ r ∈ opcodeTable, r.selects op = false) → ∃ t, step s = .next t ∧ TakesFault 1#3 op s t)

/-- A halted machine's step answers the latched record and changes nothing; every event but `Reset` leaves the machine halted
with the same record, and `Reset` clears `HALT` (40_fetch_dispatch.md R128; the spec's decision D6). -/
def Obligations.HaltedUntilReset : Prop :=
  (∀ s : State, s.halt = true →
    applyEvent .step s = .next (s, .stepped (.fault s.faultKind s.faultPc s.faultOp))) ∧
  (∀ (e : Event) (s t : State) (r : Response), s.halt = true → e ≠ .reset → applyEvent e s = .next (t, r) →
    t.halt = true ∧ t.faultKind = s.faultKind ∧ t.faultPc = s.faultPc ∧ t.faultOp = s.faultOp) ∧
  (∀ s : State, ∃ t, applyEvent .reset s = .next (t, .silent) ∧ t.halt = false)

/-- Every step of every state answers a next state: the step function is total (40_fetch_dispatch.md R130, a derived rule). -/
def Obligations.StepIsTotal : Prop := ∀ s : State, ∃ t, step s = .next t

/-- A step that halts a running machine has changed nothing but the latch, which holds one of the four fatal codes, the PC of
the instruction and the word fetched, or 0x0000 for a fetch fault (40_fetch_dispatch.md R127, 60_exceptions.md R300; precise
faults are the spec's decision D4). -/
def Obligations.FaultsArePrecise : Prop :=
  ∀ s t : State, s.halt = false → step s = .next t → t.halt = true →
    ∃ k : BitVec 3, (k = 1#3 ∨ k = 2#3 ∨ k = 3#3 ∨ k = 4#3) ∧
      ((s.fetch = none ∧ TakesFault k 0x0000#16 s t) ∨ (∃ op, s.fetch = some op ∧ TakesFault k op s t))

/-- An instruction that halts a running machine is one of the eight that can, on its one condition, with its one code; every
other instruction never faults (60_exceptions.md R297, a derived rule; key indices by the spec's decision D13). -/
def Obligations.FaultCauses : Prop :=
  ∀ (i : Instr) (s t : State), s.halt = false → exec i s = .next t → t.halt = true →
    (i = .ret ∧ s.sp.val = 0 ∧ t.faultKind = 3#3) ∨
    (∃ nnn, i = .call nnn ∧ s.sp.val = 16 ∧ t.faultKind = 2#3) ∨
    (∃ x y n, i = .drw x y n ∧ 0 < n.toNat ∧ 0xFFF < s.i.toNat + n.toNat - 1 ∧ t.faultKind = 4#3) ∨
    (∃ x, i = .ldB x ∧ 0xFFF < s.i.toNat + 2 ∧ t.faultKind = 4#3) ∨
    (∃ x, i = .ldMemVx x ∧ 0xFFF < s.i.toNat + x.toNat ∧ t.faultKind = 4#3) ∨
    (∃ x, i = .ldVxMem x ∧ 0xFFF < s.i.toNat + x.toNat ∧ t.faultKind = 4#3) ∨
    (∃ x, (i = .skp x ∨ i = .sknp x) ∧ 15 < (s.getV x).toNat ∧ t.faultKind = 4#3)

/-- A `Step` answers `ok` exactly when it leaves the machine running, and else the record in the latch
(40_fetch_dispatch.md R129). -/
def Obligations.StepAnswersResult : Prop :=
  ∀ s : State, ∃ t r, step s = .next t ∧ applyEvent .step s = .next (t, .stepped r) ∧
    (t.halt = false → r = .ok) ∧ (t.halt = true → r = .fault t.faultKind t.faultPc t.faultOp)

/-! ### Whole-machine rules -/

/-- Who writes what: each piece of state but PC is changed only by the instructions that the table of 10_state.md R20 and the
destination fields of the instructions (R22, R24) name as its writers; no instruction writes a key or `KW_KEY`, and the latch
is written only by an instruction that halts the core. -/
def Obligations.OnlyListedInstructionsWrite : Prop :=
  ∀ (i : Instr) (s t : State), exec i s = .next t →
    (∀ r, t.getV r ≠ s.getV r → xDestination? i = some r ∨ (definesFlag i = true ∧ r = 0xF#4) ∨
      ∃ x : Nibble, i = .ldVxMem x ∧ r.toNat ≤ x.toNat) ∧
    (t.i ≠ s.i → (∃ nnn, i = .ldI nnn) ∨ (∃ x, i = .addI x) ∨ (∃ x, i = .ldF x)) ∧
    (t.stk ≠ s.stk → ∃ nnn, i = .call nnn) ∧
    (t.sp ≠ s.sp → i = .ret ∨ ∃ nnn, i = .call nnn) ∧
    (t.mem ≠ s.mem → (∃ x, i = .ldB x) ∨ (∃ x, i = .ldMemVx x)) ∧
    (t.fb ≠ s.fb → i = .cls ∨ ∃ x y n, i = .drw x y n) ∧
    (t.dt ≠ s.dt → ∃ x, i = .ldDtVx x) ∧
    (t.st ≠ s.st → ∃ x, i = .ldStVx x) ∧
    t.keys = s.keys ∧
    (t.kwWait ≠ s.kwWait ∨ t.kwValid ≠ s.kwValid → ∃ x, i = .ldVxK x) ∧
    t.kwKey = s.kwKey ∧
    (t.halt = false → s.halt = false ∧ t.faultKind = s.faultKind ∧ t.faultPc = s.faultPc ∧ t.faultOp = s.faultOp) ∧
    (t.draws ≠ s.draws → ∃ x nn, i = .rnd x nn)

/-- The flag table of 10_state.md R24: what VF holds after each of the six flag-defining instructions, from the operands the
registers held when the step began, as the byte 0x00 or 0x01; no other instruction changes VF but as its ordinary
destination. -/
def Obligations.FlagTable : Prop :=
  (∀ (x y : Nibble) (s : State),
    (∃ t, exec (.addReg x y) s = .next t ∧
      t.getV 0xF#4 = if (s.getV x).toNat + (s.getV y).toNat > 255 then 0x01#8 else 0x00#8) ∧
    (∃ t, exec (.subReg x y) s = .next t ∧
      t.getV 0xF#4 = if (s.getV x).toNat > (s.getV y).toNat then 0x01#8 else 0x00#8) ∧
    (∃ t, exec (.shr x y) s = .next t ∧ t.getV 0xF#4 = if (s.getV x).getLsbD 0 then 0x01#8 else 0x00#8) ∧
    (∃ t, exec (.subnReg x y) s = .next t ∧
      t.getV 0xF#4 = if (s.getV y).toNat > (s.getV x).toNat then 0x01#8 else 0x00#8) ∧
    (∃ t, exec (.shl x y) s = .next t ∧ t.getV 0xF#4 = if (s.getV x).getLsbD 7 then 0x01#8 else 0x00#8)) ∧
  (∀ (x y n : Nibble) (s t : State), s.halt = false → exec (.drw x y n) s = .next t → t.halt = false →
    (t.getV 0xF#4 = 0x01#8 ∧ ∃ r c, r < 32 ∧ c < 64 ∧ s.fb.pixel r c = true ∧ t.fb.pixel r c = false) ∨
    (t.getV 0xF#4 = 0x00#8 ∧ ¬ ∃ r c, r < 32 ∧ c < 64 ∧ s.fb.pixel r c = true ∧ t.fb.pixel r c = false)) ∧
  (∀ (i : Instr) (s t : State), exec i s = .next t → t.getV 0xF#4 ≠ s.getV 0xF#4 →
    definesFlag i = true ∨ xDestination? i = some 0xF#4)

/-! ### Invariants -/

/-- The state after reset meets the invariant. -/
def Obligations.ResetMeetsInvariant : Prop := State.reset.Inv

/-- Every step keeps the invariant: canonical memory, the bound on PC (10_state.md R31), the stack's return addresses at most
4095 (41_flow.md R141), `KW_VALID` only with `KW_WAIT` (10_state.md R37), a waiting FX0A at PC (46_input.md R253), a coherent
fault record (10_state.md R39). -/
def Obligations.StepKeepsInvariant : Prop := ∀ s t : State, s.Inv → step s = .next t → t.Inv

/-- Every event of the host interface keeps the invariant, `Load` into a waiting program and `Reset` among them
(47_host_interface.md R265). -/
def Obligations.EventsKeepInvariant : Prop :=
  ∀ (e : Event) (s t : State) (r : Response), s.Inv → applyEvent e s = .next (t, r) → t.Inv

/-- Canonical memory stays canonical under every event, with no other premise: the model's own form of memory, on which the
statements about stores rest (log entry 2). -/
def Obligations.MemoryStaysCanonical : Prop :=
  ∀ (e : Event) (s t : State) (r : Response), s.mem.wf → applyEvent e s = .next (t, r) → t.mem.wf

/-! ### Control transfer (41_flow.md) -/

/-- 00EE pops PC from the call stack; on an empty stack it raises StackUnderflow and changes nothing else (41_flow.md R141;
the kind is the spec's decision D3). -/
def Obligations.ReturnPopsStack : Prop :=
  (∀ (s : State) (h : 0 < s.sp.val), ∃ t, exec .ret s = .next t ∧
    t.pc = s.stk[s.sp.val - 1]'(by have := s.sp.isLt; omega) ∧ t.sp.val = s.sp.val - 1 ∧
    UnchangedBut (only [.pc, .sp]) s t) ∧
  (∀ s : State, s.sp.val = 0 → ∃ t, exec .ret s = .next t ∧ TakesFault 3#3 0x00EE#16 s t)

/-- 1NNN: PC is NNN, nothing else changes (41_flow.md R142). -/
def Obligations.JumpGoesToTarget : Prop :=
  ∀ (nnn : Addr12) (s : State), ∃ t, exec (.jp nnn) s = .next t ∧ t.pc.toNat = nnn.toNat ∧
    UnchangedBut (only [.pc]) s t

/-- 2NNN pushes the address of the next instruction and jumps; with 16 entries in use it raises StackOverflow and changes
nothing else (41_flow.md R143; the depth is the spec's decision D2). -/
def Obligations.CallPushesNextAddress : Prop :=
  (∀ (nnn : Addr12) (s : State) (h : s.sp.val < 16), ∃ t, exec (.call nnn) s = .next t ∧
    t.pc.toNat = nnn.toNat ∧ t.sp.val = s.sp.val + 1 ∧ t.stk[s.sp.val] = s.pc + 2#16 ∧
    UnchangedBut (only [.pc, .sp, .stk s.sp.val]) s t) ∧
  (∀ (nnn : Addr12) (s : State), s.sp.val = 16 →
    ∃ t, exec (.call nnn) s = .next t ∧ TakesFault 2#3 (0x2#4 ++ nnn) s t)

/-- BNNN: PC is NNN + V0, not reduced to 12 bits, at most 0x10FE (41_flow.md R146; the spec's decision D29). -/
def Obligations.JumpWithOffset : Prop :=
  ∀ (nnn : Addr12) (s : State), ∃ t, exec (.jpV0 nnn) s = .next t ∧
    t.pc.toNat = nnn.toNat + (s.getV 0x0#4).toNat ∧ t.pc.toNat ≤ 0x10FE ∧ UnchangedBut (only [.pc]) s t

/-- 3XNN and 4XNN compare a register with an immediate and skip one instruction or none (41_flow.md R147, R148). -/
def Obligations.ImmediateSkips : Prop :=
  ∀ (x : Nibble) (nn : Byte) (s : State),
    (∃ t, exec (.seImm x nn) s = .next t ∧
      t.pc = (if s.getV x = nn then s.pc + 2#16 + 2#16 else s.pc + 2#16) ∧ UnchangedBut (only [.pc]) s t) ∧
    (∃ t, exec (.sneImm x nn) s = .next t ∧
      t.pc = (if s.getV x ≠ nn then s.pc + 2#16 + 2#16 else s.pc + 2#16) ∧ UnchangedBut (only [.pc]) s t)

/-- 5XY0 and 9XY0 compare two registers and skip one instruction or none; with X = Y, 5XY0 always skips and 9XY0 never
(41_flow.md R149, R150). -/
def Obligations.RegisterSkips : Prop :=
  ∀ (x y : Nibble) (s : State),
    (∃ t, exec (.seReg x y) s = .next t ∧
      t.pc = (if s.getV x = s.getV y then s.pc + 2#16 + 2#16 else s.pc + 2#16) ∧ UnchangedBut (only [.pc]) s t) ∧
    (∃ t, exec (.sneReg x y) s = .next t ∧
      t.pc = (if s.getV x ≠ s.getV y then s.pc + 2#16 + 2#16 else s.pc + 2#16) ∧ UnchangedBut (only [.pc]) s t)

/-- A call followed by a return leaves PC after the call and every stack entry in use before as it was (95 X5). -/
def Obligations.CallThenReturn : Prop :=
  ∀ (nnn : Addr12) (s : State), s.sp.val < 16 → ∃ t u, exec (.call nnn) s = .next t ∧ exec .ret t = .next u ∧
    u.pc = s.pc + 2#16 ∧ u.sp = s.sp ∧ UnchangedBut (only [.pc, .stk s.sp.val]) s u

/-! ### Registers (42_alu.md) -/

/-- 6XNN and 7XNN: the immediate, and the sum modulo 256 with no flag (42_alu.md R161, R162). -/
def Obligations.ImmediateLoadAndAdd : Prop :=
  ∀ (x : Nibble) (nn : Byte) (s : State),
    (∃ t, exec (.ldImm x nn) s = .next t ∧ t.getV x = nn ∧ t.pc = s.pc + 2#16 ∧
      UnchangedBut (only [.v x, .pc]) s t) ∧
    (∃ t, exec (.addImm x nn) s = .next t ∧ (t.getV x).toNat = ((s.getV x).toNat + nn.toNat) % 256 ∧
      t.pc = s.pc + 2#16 ∧ UnchangedBut (only [.v x, .pc]) s t)

/-- 8XY0 to 8XY3: copy, OR, AND, XOR; VF is left alone unless X = 0xF (42_alu.md R164 to R167). -/
def Obligations.RegisterCopyAndLogic : Prop :=
  ∀ (x y : Nibble) (s : State),
    (∃ t, exec (.ldReg x y) s = .next t ∧ t.getV x = s.getV y ∧ t.pc = s.pc + 2#16 ∧
      UnchangedBut (only [.v x, .pc]) s t) ∧
    (∃ t, exec (.orReg x y) s = .next t ∧ t.getV x = s.getV x ||| s.getV y ∧ t.pc = s.pc + 2#16 ∧
      UnchangedBut (only [.v x, .pc]) s t) ∧
    (∃ t, exec (.andReg x y) s = .next t ∧ t.getV x = s.getV x &&& s.getV y ∧ t.pc = s.pc + 2#16 ∧
      UnchangedBut (only [.v x, .pc]) s t) ∧
    (∃ t, exec (.xorReg x y) s = .next t ∧ t.getV x = s.getV x ^^^ s.getV y ∧ t.pc = s.pc + 2#16 ∧
      UnchangedBut (only [.v x, .pc]) s t)

/-- 8XY4: the sum modulo 256 in VX, the carry in VF, and the carry alone when X = 0xF (42_alu.md R170). -/
def Obligations.AddSetsCarry : Prop :=
  ∀ (x y : Nibble) (s : State), ∃ t, exec (.addReg x y) s = .next t ∧
    (x ≠ 0xF#4 → (t.getV x).toNat = ((s.getV x).toNat + (s.getV y).toNat) % 256) ∧
    t.getV 0xF#4 = (if (s.getV x).toNat + (s.getV y).toNat > 255 then 0x01#8 else 0x00#8) ∧
    t.pc = s.pc + 2#16 ∧ UnchangedBut (only [.v x, .v 0xF#4, .pc]) s t

/-- 8XY5 and 8XY7: the difference modulo 256 in VX, and VF = 1 exactly when the first operand is strictly greater; the flag
alone when X = 0xF (42_alu.md R172, R176). -/
def Obligations.SubtractionsSetStrictFlag : Prop :=
  ∀ (x y : Nibble) (s : State),
    (∃ t, exec (.subReg x y) s = .next t ∧
      (x ≠ 0xF#4 → (t.getV x).toNat = ((s.getV x).toNat + 256 - (s.getV y).toNat) % 256) ∧
      t.getV 0xF#4 = (if (s.getV x).toNat > (s.getV y).toNat then 0x01#8 else 0x00#8) ∧
      t.pc = s.pc + 2#16 ∧ UnchangedBut (only [.v x, .v 0xF#4, .pc]) s t) ∧
    (∃ t, exec (.subnReg x y) s = .next t ∧
      (x ≠ 0xF#4 → (t.getV x).toNat = ((s.getV y).toNat + 256 - (s.getV x).toNat) % 256) ∧
      t.getV 0xF#4 = (if (s.getV y).toNat > (s.getV x).toNat then 0x01#8 else 0x00#8) ∧
      t.pc = s.pc + 2#16 ∧ UnchangedBut (only [.v x, .v 0xF#4, .pc]) s t)

/-- 8XY6 and 8XYE shift VX itself by one, whatever Y; VF is the bit shifted out, and that alone when X = 0xF (42_alu.md R174,
R178). -/
def Obligations.ShiftsInPlace : Prop :=
  ∀ (x y : Nibble) (s : State),
    (∃ t, exec (.shr x y) s = .next t ∧ (x ≠ 0xF#4 → (t.getV x).toNat = (s.getV x).toNat / 2) ∧
      (t.getV 0xF#4).toNat = (s.getV x).toNat % 2 ∧
      t.pc = s.pc + 2#16 ∧ UnchangedBut (only [.v x, .v 0xF#4, .pc]) s t) ∧
    (∃ t, exec (.shl x y) s = .next t ∧ (x ≠ 0xF#4 → (t.getV x).toNat = (s.getV x).toNat * 2 % 256) ∧
      (t.getV 0xF#4).toNat = (s.getV x).toNat / 128 ∧
      t.pc = s.pc + 2#16 ∧ UnchangedBut (only [.v x, .v 0xF#4, .pc]) s t)

/-- CXNN completes with `draw & NN` in VX, the draw being the opaque byte `Config.draw8 s.draws`; and for every byte in place of
that draw, the result and the frame are those of 42_alu.md R181, with one draw counted. The source and the counter are the
model's choice (log entry 1), after the spec's decision D23 that a draw is a free value: nothing here rests on what it is. -/
def Obligations.RandomMasksDraw : Prop :=
  ∀ (x : Nibble) (nn : Byte) (s : State),
    (∃ t, exec (.rnd x nn) s = .next t ∧ t = rndWith (Config.draw8 s.draws) x nn s) ∧
    (∀ draw, (rndWith draw x nn s).getV x = draw &&& nn ∧ (rndWith draw x nn s).pc = s.pc + 2#16 ∧
      (rndWith draw x nn s).draws = s.draws + 1 ∧ UnchangedBut (only [.v x, .pc, .draws]) s (rndWith draw x nn s))

/-! ### Index register and memory (43_index_memory.md) -/

/-- ANNN: I is NNN (43_index_memory.md R191). -/
def Obligations.IndexImmediate : Prop :=
  ∀ (nnn : Addr12) (s : State), ∃ t, exec (.ldI nnn) s = .next t ∧ t.i.toNat = nnn.toNat ∧ t.pc = s.pc + 2#16 ∧
    UnchangedBut (only [.i, .pc]) s t

/-- FX1E adds VX to I modulo 65536 with no flag; FX29 sets I to five times the full byte VX (43_index_memory.md R192, R194;
the spec's decisions D26, D28). -/
def Obligations.IndexArithmetic : Prop :=
  ∀ (x : Nibble) (s : State),
    (∃ t, exec (.addI x) s = .next t ∧ t.i.toNat = (s.i.toNat + (s.getV x).toNat) % 65536 ∧ t.pc = s.pc + 2#16 ∧
      UnchangedBut (only [.i, .pc]) s t) ∧
    (∃ t, exec (.ldF x) s = .next t ∧ t.i.toNat = 5 * (s.getV x).toNat ∧ t.pc = s.pc + 2#16 ∧
      UnchangedBut (only [.i, .pc]) s t)

/-- FX33 stores the hundreds, tens and units of VX at I, I + 1, I + 2 and nothing else; where `I + 2 > 0xFFF` it raises
OutOfBounds and stores nothing (43_index_memory.md R196).
The code of the fault is the spec's decision D5, that it changes nothing else its decisions D4 and D21. -/
def Obligations.BcdStore : Prop :=
  (∀ (x : Nibble) (s : State), s.mem.wf → s.i.toNat + 2 ≤ 0xFFF → ∃ t, exec (.ldB x) s = .next t ∧
    t.mem.read? s.i.toNat = some (BitVec.ofNat 8 ((s.getV x).toNat / 100)) ∧
    t.mem.read? (s.i.toNat + 1) = some (BitVec.ofNat 8 ((s.getV x).toNat / 10 % 10)) ∧
    t.mem.read? (s.i.toNat + 2) = some (BitVec.ofNat 8 ((s.getV x).toNat % 10)) ∧ t.pc = s.pc + 2#16 ∧
    UnchangedBut (only [.pc, .mem s.i.toNat, .mem (s.i.toNat + 1), .mem (s.i.toNat + 2)]) s t) ∧
  (∀ (x : Nibble) (s : State), 0xFFF < s.i.toNat + 2 →
    ∃ t, exec (.ldB x) s = .next t ∧ TakesFault 4#3 ((0xF#4 ++ x) ++ 0x33#8) s t)

/-- FX55 stores V0 to VX at I to I + X and nothing else, I unchanged; where `I + X > 0xFFF` it raises OutOfBounds and stores
nothing (43_index_memory.md R198).
The code of the fault is the spec's decision D5, that it changes nothing else its decisions D4 and D21. -/
def Obligations.RegisterRangeStore : Prop :=
  (∀ (x : Nibble) (s : State), s.mem.wf → s.i.toNat + x.toNat ≤ 0xFFF → ∃ t, exec (.ldMemVx x) s = .next t ∧
    (∀ k : Nibble, k.toNat ≤ x.toNat → t.mem.read? (s.i.toNat + k.toNat) = some (s.getV k)) ∧ t.pc = s.pc + 2#16 ∧
    UnchangedBut (fun p => p = .pc ∨ ∃ k, k ≤ x.toNat ∧ p = .mem (s.i.toNat + k)) s t) ∧
  (∀ (x : Nibble) (s : State), 0xFFF < s.i.toNat + x.toNat →
    ∃ t, exec (.ldMemVx x) s = .next t ∧ TakesFault 4#3 ((0xF#4 ++ x) ++ 0x55#8) s t)

/-- FX65 loads V0 to VX from I to I + X, the registers above X, I and memory unchanged; where `I + X > 0xFFF` it raises
OutOfBounds and loads nothing (43_index_memory.md R200).
The code of the fault is the spec's decision D5, that it changes nothing else its decisions D4 and D21. -/
def Obligations.RegisterRangeLoad : Prop :=
  (∀ (x : Nibble) (s : State), s.i.toNat + x.toNat ≤ 0xFFF → ∃ t, exec (.ldVxMem x) s = .next t ∧
    (∀ k : Nibble, k.toNat ≤ x.toNat → s.mem.read? (s.i.toNat + k.toNat) = some (t.getV k)) ∧ t.pc = s.pc + 2#16 ∧
    UnchangedBut (fun p => p = .pc ∨ ∃ k : Nibble, k.toNat ≤ x.toNat ∧ p = .v k) s t) ∧
  (∀ (x : Nibble) (s : State), 0xFFF < s.i.toNat + x.toNat →
    ∃ t, exec (.ldVxMem x) s = .next t ∧ TakesFault 4#3 ((0xF#4 ++ x) ++ 0x65#8) s t)

/-- A word stored by FX55 over the next instruction is the word the next step fetches (20_memory.md R77, a derived rule). -/
def Obligations.StoredCodeIsFetched : Prop :=
  ∀ (x : Nibble) (s : State), s.mem.wf → 1 ≤ x.toNat → s.i.toNat + x.toNat ≤ 0xFFF → s.i = s.pc + 2#16 →
    s.i.toNat < 4094 → ∃ t, exec (.ldMemVx x) s = .next t ∧ t.fetch = some (s.getV 0x0#4 ++ s.getV 0x1#4)

/-! ### Display (44_display.md) -/

/-- 00E0: every pixel is 0, nothing else changes but PC (44_display.md R211). -/
def Obligations.ClearScreen : Prop :=
  ∀ s : State, ∃ t, exec .cls s = .next t ∧ (∀ r c, t.fb.pixel r c = false) ∧ t.pc = s.pc + 2#16 ∧
    UnchangedBut (only [.fb, .pc]) s t

/-- DXYN flips exactly the pixels the sprite's 1 bits fall on, wrapped at the edges, and VF is 1 exactly when one of them was
lit; a sprite byte beyond memory raises OutOfBounds and draws nothing (44_display.md R214; the N = 0 clause is the spec's
decision D12, the bit order its decision D10). -/
def Obligations.DrawFlipsCoveredPixels : Prop :=
  (∀ (x y n : Nibble) (s : State), n.toNat = 0 ∨ s.i.toNat + n.toNat - 1 ≤ 0xFFF →
    ∃ t, exec (.drw x y n) s = .next t ∧
      (∀ r c, r < 32 → c < 64 →
        (SpriteCovers s x y n r c → t.fb.pixel r c = !s.fb.pixel r c) ∧
        (¬ SpriteCovers s x y n r c → t.fb.pixel r c = s.fb.pixel r c)) ∧
      ((∃ r c, r < 32 ∧ c < 64 ∧ SpriteCovers s x y n r c ∧ s.fb.pixel r c = true) → t.getV 0xF#4 = 0x01#8) ∧
      ((¬ ∃ r c, r < 32 ∧ c < 64 ∧ SpriteCovers s x y n r c ∧ s.fb.pixel r c = true) → t.getV 0xF#4 = 0x00#8) ∧
      t.pc = s.pc + 2#16 ∧ UnchangedBut (only [.fb, .v 0xF#4, .pc]) s t) ∧
  (∀ (x y n : Nibble) (s : State), 0 < n.toNat → 0xFFF < s.i.toNat + n.toNat - 1 →
    ∃ t, exec (.drw x y n) s = .next t ∧ TakesFault 4#3 ((0xD#4 ++ x) ++ (y ++ n)) s t)

/-- Drawing the same sprite at the same place twice restores every pixel, and the second draw collides exactly when a 1 bit
of the sprite fell on a dark pixel the first time (44_display.md R217(a), a derived rule). -/
def Obligations.DrawTwiceRestores : Prop :=
  ∀ (x y : Byte) (sprite : List Byte) (fb : FrameBuffer), sprite.length ≤ 15 →
    (draw x y sprite (draw x y sprite fb).1).1 = fb ∧
    ((draw x y sprite (draw x y sprite fb).1).2 = true ↔
      ∃ r c, r < 32 ∧ c < 64 ∧ fb.pixel r c = false ∧ (draw x y sprite fb).1.pixel r c = true)

/-! ### Timers (45_timers.md) -/

/-- FX07 reads DT, FX15 sets DT, FX18 sets ST; each touches nothing else but PC (45_timers.md R231, R232, R233). -/
def Obligations.TimerInstructions : Prop :=
  ∀ (x : Nibble) (s : State),
    (∃ t, exec (.ldVxDt x) s = .next t ∧ t.getV x = s.dt ∧ t.pc = s.pc + 2#16 ∧ UnchangedBut (only [.v x, .pc]) s t) ∧
    (∃ t, exec (.ldDtVx x) s = .next t ∧ t.dt = s.getV x ∧ t.pc = s.pc + 2#16 ∧ UnchangedBut (only [.dt, .pc]) s t) ∧
    (∃ t, exec (.ldStVx x) s = .next t ∧ t.st = s.getV x ∧ t.pc = s.pc + 2#16 ∧ UnchangedBut (only [.st, .pc]) s t)

/-- `Tick` counts each non-zero timer down by one, never below zero, in every state, and touches nothing else
(45_timers.md R234; one event for both counters is the spec's decision D16). -/
def Obligations.TickCountsDown : Prop :=
  ∀ s : State, ∃ t, applyEvent .tick s = .next (t, .silent) ∧ t.dt.toNat = s.dt.toNat - 1 ∧
    t.st.toNat = s.st.toNat - 1 ∧ UnchangedBut (only [.dt, .st]) s t

/-- A delay timer set by FX15 to n reads `n - k` after k ticks and 0 from the n-th on, and FX07 then reads that value
(45_timers.md R239). -/
def Obligations.TimerDecay : Prop :=
  ∀ (x z : Nibble) (k : Nat) (s : State), ∃ t, exec (.ldDtVx x) s = .next t ∧
    (tick^[k] t).dt.toNat = (s.getV x).toNat - k ∧
    ∃ u, exec (.ldVxDt z) (tick^[k] t) = .next u ∧ (u.getV z).toNat = (s.getV x).toNat - k

/-! ### Keys (46_input.md) -/

/-- EX9E skips when the key VX is down and EXA1 when it is up; an index above 15 raises OutOfBounds (46_input.md R246, R247;
the fault is the spec's decision D13). -/
def Obligations.KeySkips : Prop :=
  (∀ (x k : Nibble) (s : State), (s.getV x).toNat = k.toNat →
    (∃ t, exec (.skp x) s = .next t ∧
      t.pc = (if s.keyDown k then s.pc + 2#16 + 2#16 else s.pc + 2#16) ∧ UnchangedBut (only [.pc]) s t) ∧
    (∃ t, exec (.sknp x) s = .next t ∧
      t.pc = (if s.keyDown k then s.pc + 2#16 else s.pc + 2#16 + 2#16) ∧ UnchangedBut (only [.pc]) s t)) ∧
  (∀ (x : Nibble) (s : State), 15 < (s.getV x).toNat →
    (∃ t, exec (.skp x) s = .next t ∧ TakesFault 4#3 ((0xE#4 ++ x) ++ 0x9E#8) s t) ∧
    (∃ t, exec (.sknp x) s = .next t ∧ TakesFault 4#3 ((0xE#4 ++ x) ++ 0xA1#8) s t))

/-- FX0A: at entry the wait begins and PC stays; while no edge is captured nothing changes; a captured key goes to VX, the
latch returns to IDLE and PC advances by 2 (46_input.md R252; the latch is the spec's decision D14). -/
def Obligations.KeyReadArbiter : Prop :=
  ∀ (x : Nibble) (s : State), ∃ t, exec (.ldVxK x) s = .next t ∧
    (s.kwWait = false → t.kwWait = true ∧ t.kwValid = false ∧ UnchangedBut (only [.kwWait, .kwValid]) s t) ∧
    (s.kwWait = true → s.kwValid = false → t = s) ∧
    (s.kwWait = true → s.kwValid = true → (t.getV x).toNat = s.kwKey.toNat ∧ t.kwWait = false ∧ t.kwValid = false ∧
      t.pc = s.pc + 2#16 ∧ UnchangedBut (only [.v x, .kwWait, .kwValid, .pc]) s t)

/-- A waiting FX0A with no captured edge is stuck: every step of such a machine leaves it exactly as it is
(46_input.md R254(b), R255). -/
def Obligations.WaitNeedsCapturedEdge : Prop :=
  ∀ s : State, s.Inv → s.kwWait = true → s.kwValid = false → step s = .next s

/-- `Press(k)`: a down-transition sets the key and, while an FX0A waits with nothing captured, captures it; a press of a key
that is down changes nothing at all (46_input.md R256). -/
def Obligations.PressIsEdgeTriggered : Prop :=
  ∀ (k : Nibble) (s : State), ∃ t, applyEvent (.press k) s = .next (t, .silent) ∧
    (s.keyDown k = true → t = s) ∧
    (s.keyDown k = false → t.keyDown k = true ∧
      (s.kwWait = true → s.kwValid = false → t.kwValid = true ∧ t.kwKey = k ∧
        UnchangedBut (only [.key k, .kwValid, .kwKey]) s t) ∧
      (s.kwWait = false ∨ s.kwValid = true → UnchangedBut (only [.key k]) s t))

/-- `Release(k)` clears the key and nothing else; of a key that is up it changes nothing at all (46_input.md R258). -/
def Obligations.ReleaseClearsKey : Prop :=
  ∀ (k : Nibble) (s : State), ∃ t, applyEvent (.release k) s = .next (t, .silent) ∧ t.keyDown k = false ∧
    UnchangedBut (only [.key k]) s t ∧ (s.keyDown k = false → t = s)

/-- The first captured key wins: whatever presses, releases and ticks follow a capture, the next step delivers that key and
advances PC by 2 (46_input.md R253, R254(d), (e)). -/
def Obligations.FirstCapturedKeyIsDelivered : Prop :=
  ∀ (es : List Event) (op : Word) (x : Nibble) (s t : State), s.kwWait = true → s.kwValid = true →
    s.halt = false → s.fetch = some op → decode op = .ok (.ldVxK x) →
    (∀ e ∈ es, e = .tick ∨ (∃ k, e = .press k) ∨ (∃ k, e = .release k)) →
    es.foldlM (fun s e => match applyEvent e s with | .next (u, _) => some u | _ => none) s = some t →
    ∃ u, step t = .next u ∧ (u.getV x).toNat = s.kwKey.toNat ∧ u.pc = s.pc + 2#16

/-! ### Host interface (47_host_interface.md, 70_reset_and_hazards.md) -/

/-- `Load` of at most 3584 bytes copies them to 0x200 on, returns the arbiter to IDLE and touches nothing else, `HALT`
included (47_host_interface.md R270; the spec's decision D19). -/
def Obligations.LoadCopiesRom : Prop :=
  ∀ (rom : List Byte) (s : State), s.mem.wf → rom.length ≤ 3584 →
    ∃ t, applyEvent (.load rom) s = .next (t, .loaded) ∧
      (∀ j, j < rom.length → t.mem.read? (0x200 + j) = rom[j]?) ∧ t.kwWait = false ∧ t.kwValid = false ∧
      UnchangedBut (fun p => p = .kwWait ∨ p = .kwValid ∨ ∃ j, j < rom.length ∧ p = .mem (0x200 + j)) s t

/-- `Load` of more than 3584 bytes answers RomTooLarge and changes no state at all; a ROM of exactly 3584 bytes is accepted
and fills 0x200..0xFFF (47_host_interface.md R271). -/
def Obligations.OversizedLoadRejected : Prop :=
  (∀ (rom : List Byte) (s : State), 3584 < rom.length →
    applyEvent (.load rom) s = .next (s, .error .romTooLarge)) ∧
  (∀ (rom : List Byte) (s : State), s.mem.wf → rom.length = 3584 →
    ∃ t, applyEvent (.load rom) s = .next (t, .loaded) ∧
      ∀ a, 0x200 ≤ a → a ≤ 0xFFF → t.mem.read? a = rom[a - 0x200]?)

/-- `Reset`, in every state, leaves the values of the table of 10_state.md R40 (70_reset_and_hazards.md R330; the values other
than the clear screen, the font's place and the PC are the spec's decisions D11, D14, D17, D18). -/
def Obligations.ResetInstallsValues : Prop :=
  ∀ s : State, ∃ t, applyEvent .reset s = .next (t, .silent) ∧
    (∀ r, t.getV r = 0x00#8) ∧ t.i = 0x0000#16 ∧ t.pc = 0x0200#16 ∧ t.sp.val = 0 ∧
    (∀ k, (h : k < 16) → t.stk[k] = 0x0000#16) ∧
    t.mem.readBytes? 0x000 5 = some [0xF0#8, 0x90#8, 0x90#8, 0x90#8, 0xF0#8] ∧
    t.mem.readBytes? 0x04B 5 = some [0xF0#8, 0x80#8, 0xF0#8, 0x80#8, 0x80#8] ∧
    (∀ a, a < 80 → t.mem.read? a = font[a]?) ∧
    (∀ a, 0x050 ≤ a → a ≤ 0xFFF → t.mem.read? a = some 0x00#8) ∧
    (∀ r c, t.fb.pixel r c = false) ∧ t.dt = 0x00#8 ∧ t.st = 0x00#8 ∧ (∀ k, t.keyDown k = false) ∧
    t.kwWait = false ∧ t.kwValid = false ∧ t.kwKey = 0x0#4 ∧ t.halt = false ∧ t.faultKind = 0#3 ∧
    t.faultPc = 0x0000#16 ∧ t.faultOp = 0x0000#16

/-- `ReadDisplay` answers 32 rows of 64 bits, `FB[r][c]`, and changes nothing; no event but `Step` and `Reset`
changes a pixel (47_host_interface.md R276). -/
def Obligations.ReadDisplayShowsFrame : Prop :=
  (∀ s : State, ∃ rows, applyEvent .readDisplay s = .next (s, .display rows) ∧ rows.length = 32 ∧
    (∀ row ∈ rows, row.length = 64) ∧
    ∀ r c, r < 32 → c < 64 → (rows[r]?.bind fun row => row[c]?) = some (s.fb.pixel r c)) ∧
  (∀ (e : Event) (s t : State) (r : Response), e ≠ .step → e ≠ .reset → applyEvent e s = .next (t, r) → t.fb = s.fb)

/-- `ReadRegisters` answers V0 to V15 in that order and changes nothing (47_host_interface.md R278). -/
def Obligations.ReadRegistersShowsV : Prop :=
  ∀ s : State, ∃ bytes, applyEvent .readRegisters s = .next (s, .registers bytes) ∧ bytes.length = 16 ∧
    ∀ r : Nibble, bytes[r.toNat]? = some (s.getV r)

/-- `Run(n)` is at most n steps: it ends after some k of them, before n only because the machine is halted, with the result
of the last (47_host_interface.md R273; the spec's decision D27). -/
def Obligations.RunIsBoundedSteps : Prop :=
  ∀ (n : Nat) (s : State), ∃ t k, run n s = .next (t, t.stepResult) ∧ k ≤ n ∧ Sys2Proof.core.run k s = .next t ∧
    (k < n → t.halt = true) ∧ (∀ j u, 0 < j → j < k → Sys2Proof.core.run j s = .next u → u.halt = false)

/-! ### Runs (47_host_interface.md R266, R268) -/

/-- The host may issue any event in any state: each is answered, and none is turned away but a `Load` that is too long, which
changes nothing (47_host_interface.md R268). -/
def Obligations.EveryEventIsAccepted : Prop :=
  ∀ (e : Event) (s : State), ∃ t r, applyEvent e s = .next (t, r) ∧
    ((∃ k, r = .error k) ↔ ∃ rom, e = .load rom ∧ 3584 < rom.length) ∧
    (∀ k, r = .error k → k = .romTooLarge ∧ t = s)

/-- Fairness fixes no count: whatever finite list of events has run, with any number of steps and no tick in it, is the
beginning of a run in which ticks keep coming (47_host_interface.md R268; 45_timers.md R235). That fairness is asked of the
ticks alone is DEDUCED from R268 (log entry 8). -/
def Obligations.FiniteRunsExtendFairly : Prop :=
  ∀ (es : List Event) (s : State), ∃ t sched trace, runEvents es s = .next t ∧ IsRun sched trace ∧ TickFair sched ∧
    trace 0 = s ∧ (∀ n, (h : n < es.length) → sched n = es[n]) ∧ trace es.length = t

/-- Every state of every run of the core meets the invariant, whatever the host loads and however the agents' events fall
(47_host_interface.md R265, R266; 70_reset_and_hazards.md R331). -/
def Obligations.CoreRunsMeetInvariant : Prop :=
  ∀ (sched : Nat → Event) (trace : Nat → State), CoreRun sched trace → ∀ n, (trace n).Inv

/-- While an FX0A waits and no key is pressed, nothing loaded and no `Reset` issued, the wait goes on for ever with PC, the
registers, memory and the frame as they were, and the timers, since ticks keep coming, come to 0 and stay there
(46_input.md R254(b), (f), R255; 47_host_interface.md R268, with fairness as in log entry 8). -/
def Obligations.WaitingTimersRunOut : Prop :=
  ∀ (sched : Nat → Event) (trace : Nat → State), IsRun sched trace → TickFair sched → (trace 0).Inv →
    (trace 0).kwWait = true → (trace 0).kwValid = false →
    (∀ n, (∀ k, sched n ≠ .press k) ∧ (∀ rom, sched n ≠ .load rom) ∧ sched n ≠ .reset) →
    (∀ n, UnchangedBut (fun p => p = .dt ∨ p = .st ∨ ∃ k, p = .key k) (trace 0) (trace n)) ∧
    ∃ n, ∀ m, n ≤ m → (trace m).dt = 0x00#8 ∧ (trace m).st = 0x00#8
end

