-- ==== Sys2Proof/Laws/Memory.lean ====
section
/-! SUPPORT. The laws of memory: a read after a write, a range read and a range write, and the canonical form kept by every
operation. -/

namespace Sys2Proof.Machine

/-! ### One byte -/

theorem Memory.lookup_of_lt {m : Memory} {a : Nat} (h : ∀ c ∈ m, a < c.1) : Memory.lookup m a = Memory.unlisted a := by
  induction m with
  | nil => rfl
  | cons c m ih =>
    have hc : c.1 ≠ a := by have := h c (by simp); omega
    simp only [Memory.lookup, hc, if_false]
    exact ih fun d hd => h d (by simp [hd])

/-- A read after a store, in canonical memory: the byte stored, and every other address as before. -/
theorem Memory.lookup_store {m : Memory} (hm : m.Pairwise (fun c d => c.1 < d.1)) (a a' : Nat) (b : Byte) :
    Memory.lookup (Memory.store m a b) a' = if a' = a then b else Memory.lookup m a' := by
  induction m with
  | nil =>
    unfold Memory.store
    split
    · rename_i h; by_cases e : a' = a <;> simp [Memory.lookup, e, h]
    · by_cases e : a' = a
      · simp [Memory.lookup, e]
      · simp [Memory.lookup, e, Ne.symm e]
  | cons c m ih =>
    obtain ⟨hc, hm'⟩ := List.pairwise_cons.mp hm
    unfold Memory.store
    split
    · rename_i h
      by_cases e : c.1 = a'
      · have : a' ≠ a := by omega
        simp [Memory.lookup, e, this]
      · simp only [Memory.lookup, e, if_false]; exact ih hm'
    · split
      · rename_i h1 h2
        have hu : Memory.lookup m a = Memory.unlisted a := Memory.lookup_of_lt fun d hd => by have := hc d hd; omega
        split
        · rename_i h3
          by_cases e : a' = a
          · simp [e, hu, h3]
          · have : c.1 ≠ a' := by omega
            simp [Memory.lookup, e, this]
        · by_cases e : a' = a
          · simp [Memory.lookup, e]
          · have : c.1 ≠ a' := by omega
            simp [Memory.lookup, e, Ne.symm e, this]
      · rename_i h1 h2
        have hu : Memory.lookup (c :: m) a = Memory.unlisted a := Memory.lookup_of_lt fun d hd => by
          rcases List.mem_cons.mp hd with rfl | hd
          · omega
          · have := hc d hd; omega
        split
        · rename_i h3
          by_cases e : a' = a
          · rw [e, hu]; simp [h3]
          · simp [e]
        · by_cases e : a' = a
          · simp [Memory.lookup, e]
          · simp [Memory.lookup, e, Ne.symm e]

theorem Memory.mem_store {m : Memory} {a : Nat} {b : Byte} {c : Host.Cell} (h : c ∈ Memory.store m a b) :
    c ∈ m ∨ (c = (a, b) ∧ b ≠ Memory.unlisted a) := by
  induction m with
  | nil =>
    unfold Memory.store at h
    split at h
    · simp at h
    · rename_i hb; exact .inr ⟨by simpa using h, hb⟩
  | cons d m ih =>
    unfold Memory.store at h
    split at h
    · rcases List.mem_cons.mp h with rfl | h
      · exact .inl (by simp)
      · rcases ih h with h | h
        · exact .inl (by simp [h])
        · exact .inr h
    · split at h
      · split at h
        · exact .inl (by simp [h])
        · rename_i hb
          rcases List.mem_cons.mp h with h | h
          · exact .inr ⟨h, hb⟩
          · exact .inl (by simp [h])
      · split at h
        · exact .inl h
        · rename_i hb
          rcases List.mem_cons.mp h with h | h
          · exact .inr ⟨h, hb⟩
          · exact .inl h

theorem Memory.store_pairwise {m : Memory} (hm : m.Pairwise (fun c d => c.1 < d.1)) (a : Nat) (b : Byte) :
    (Memory.store m a b).Pairwise (fun c d => c.1 < d.1) := by
  induction m with
  | nil => unfold Memory.store; split <;> simp
  | cons c m ih =>
    obtain ⟨hc, hm'⟩ := List.pairwise_cons.mp hm
    unfold Memory.store
    split
    · rename_i h
      refine List.pairwise_cons.mpr ⟨fun d hd => ?_, ih hm'⟩
      rcases Memory.mem_store hd with hd | ⟨rfl, -⟩
      · exact hc d hd
      · exact h
    · split
      · rename_i h1 h2
        split
        · exact hm'
        · exact List.pairwise_cons.mpr ⟨fun d hd => by have := hc d hd; simp only; omega, hm'⟩
      · rename_i h1 h2
        split
        · exact hm
        · refine List.pairwise_cons.mpr ⟨fun d hd => ?_, hm⟩
          rcases List.mem_cons.mp hd with rfl | hd
          · simp only; omega
          · have := hc d hd; simp only; omega

/-- A store inside memory keeps the canonical form. -/
theorem Memory.store_wf {m : Memory} (hm : m.wf) {a : Nat} (ha : a < memSize) (b : Byte) :
    Memory.wf (Memory.store m a b) := by
  refine ⟨Memory.store_pairwise hm.1 a b, fun c hc => ?_⟩
  rcases Memory.mem_store hc with hc | ⟨rfl, hb⟩
  · exact hm.2 c hc
  · exact ⟨ha, hb⟩

theorem Memory.read?_eq_some {m : Memory} {a : Nat} (h : a < memSize) : m.read? a = some (m.lookup a) := if_pos h

theorem Memory.read?_eq_none {m : Memory} {a : Nat} (h : memSize ≤ a) : m.read? a = none := if_neg (by omega)

/-- Everything a byte write can answer (00_scope.md R12). -/
theorem Memory.write?_cases (m : Memory) (a : Nat) (b : Byte) :
    (a < memSize ∧ m.write? a b = some (Memory.store m a b)) ∨ (memSize ≤ a ∧ m.write? a b = none) := by
  by_cases h : a < memSize
  · exact .inl ⟨h, if_pos h⟩
  · exact .inr ⟨by omega, if_neg h⟩

/-- A byte write keeps the canonical form. -/
theorem Memory.write?_wf {m m' : Memory} {a : Nat} {b : Byte} (hm : m.wf) (h : m.write? a b = some m') : m'.wf := by
  rcases Memory.write?_cases m a b with ⟨ha, e⟩ | ⟨-, e⟩
  · rw [e] at h; cases h; exact Memory.store_wf hm ha b
  · rw [e] at h; cases h

/-- The byte written is read back and every other byte reads as before, in canonical memory. -/
theorem Memory.read?_write? {m m' : Memory} {a : Nat} {b : Byte} (hm : m.wf) (h : m.write? a b = some m') (a' : Nat) :
    m'.read? a' = if a' = a then some b else m.read? a' := by
  rcases Memory.write?_cases m a b with ⟨ha, e⟩ | ⟨-, e⟩
  · rw [e] at h; cases h
    unfold Memory.read?
    rw [Memory.lookup_store hm.1]
    by_cases ea : a' = a
    · simp [ea, ha]
    · simp [ea]
  · rw [e] at h; cases h

/-! ### Ranges of bytes -/

/-- Everything a range read can answer (20_memory.md R70, R71): all the bytes, or none because one is beyond memory. -/
theorem Memory.readBytes?_cases (m : Memory) (a n : Nat) :
    ((n = 0 ∨ a + n ≤ memSize) ∧ m.readBytes? a n = some ((List.range n).map fun k => m.lookup (a + k))) ∨
    (0 < n ∧ memSize < a + n ∧ m.readBytes? a n = none) := by
  induction n generalizing a with
  | zero => exact .inl ⟨.inl rfl, rfl⟩
  | succ n ih =>
    have hshift : (List.range (n + 1)).map (fun k => m.lookup (a + k)) =
        m.lookup a :: (List.range n).map fun k => m.lookup (a + 1 + k) := by
      rw [List.range_succ_eq_map]
      simp [Function.comp_def, Nat.add_assoc, Nat.add_comm 1]
    by_cases ha : a < memSize
    · rcases ih (a + 1) with ⟨hn, e⟩ | ⟨h0, hn, e⟩
      · refine .inl ⟨.inr (by omega), ?_⟩
        simp only [Memory.readBytes?, Memory.read?_eq_some ha, e, hshift]
      · exact .inr ⟨by omega, by omega, by simp only [Memory.readBytes?, Memory.read?_eq_some ha, e]⟩
    · exact .inr ⟨by omega, by omega, by simp only [Memory.readBytes?, Memory.read?_eq_none (Nat.le_of_not_lt ha)]⟩

theorem Memory.readBytes?_of_le {m : Memory} {a n : Nat} (h : a + n ≤ memSize) :
    m.readBytes? a n = some ((List.range n).map fun k => m.lookup (a + k)) := by
  rcases Memory.readBytes?_cases m a n with ⟨-, e⟩ | ⟨-, h', -⟩
  · exact e
  · omega

theorem Memory.readBytes?_of_lt {m : Memory} {a n : Nat} (h0 : 0 < n) (h : memSize < a + n) :
    m.readBytes? a n = none := by
  rcases Memory.readBytes?_cases m a n with ⟨h', -⟩ | ⟨-, -, e⟩
  · omega
  · exact e

/-- A range write keeps the canonical form. -/
theorem Memory.writeBytes?_wf {m m' : Memory} {a : Nat} {bs : List Byte} (hm : m.wf)
    (h : m.writeBytes? a bs = some m') : m'.wf := by
  induction bs generalizing m a with
  | nil => simp only [Memory.writeBytes?, Option.some.injEq] at h; exact h ▸ hm
  | cons b bs ih =>
    simp only [Memory.writeBytes?] at h
    split at h
    · rename_i m₁ e; exact ih (Memory.write?_wf hm e) h
    · cases h

/-- A range write answers a memory exactly when every byte of the range exists (20_memory.md R70). -/
theorem Memory.writeBytes?_isSome (m : Memory) (a : Nat) (bs : List Byte) :
    (m.writeBytes? a bs).isSome ↔ bs = [] ∨ a + bs.length ≤ memSize := by
  induction bs generalizing m a with
  | nil => simp [Memory.writeBytes?]
  | cons b bs ih =>
    rcases Memory.write?_cases m a b with ⟨ha, e⟩ | ⟨ha, e⟩
    · simp only [Memory.writeBytes?, e, ih, List.length_cons]
      constructor
      · rintro (rfl | h)
        · exact .inr (by simp; omega)
        · exact .inr (by omega)
      · rintro (h | h)
        · cases h
        · exact .inr (by omega)
    · simp [Memory.writeBytes?, e]; omega

/-- What a range write leaves at each address: the byte of the range that falls there, else the byte before. -/
theorem Memory.read?_writeBytes? {m m' : Memory} {a : Nat} {bs : List Byte} (hm : m.wf)
    (h : m.writeBytes? a bs = some m') (a' : Nat) :
    m'.read? a' = if a ≤ a' ∧ a' < a + bs.length then bs[a' - a]? else m.read? a' := by
  induction bs generalizing m a with
  | nil =>
    simp only [Memory.writeBytes?, Option.some.injEq] at h
    subst h
    have : ¬ (a ≤ a' ∧ a' < a + ([] : List Byte).length) := by simp
    rw [if_neg this]
  | cons b bs ih =>
    simp only [Memory.writeBytes?] at h
    split at h
    · rename_i m₁ e
      rw [ih (Memory.write?_wf hm e) h, Memory.read?_write? hm e]
      by_cases h1 : a' = a
      · subst h1
        have : ¬ (a' + 1 ≤ a' ∧ a' < a' + 1 + bs.length) := by omega
        rw [if_neg this]; simp
      · by_cases h2 : a + 1 ≤ a' ∧ a' < a + 1 + bs.length
        · have h3 : a ≤ a' ∧ a' < a + (b :: bs).length := by simp; omega
          have h4 : a' - a = a' - (a + 1) + 1 := by omega
          rw [if_pos h2, if_pos h3, h4, List.getElem?_cons_succ]
        · have h3 : ¬ (a ≤ a' ∧ a' < a + (b :: bs).length) := by simp; omega
          rw [if_neg h2, if_neg h3, if_neg h1]
    · cases h

end Sys2Proof.Machine
end

