-- ==== Sys2Proof/Laws/State.lean ====
section
/-! SUPPORT. What each update of the state leaves in each field, once: one lemma per field per update, and the same for the
two register reads `getV` and `keyDown`. -/

namespace Sys2Proof.Machine

variable (s : State)

/-! ### setV -/

@[simp] theorem State.setV_v (r : Nibble) (b : Byte) : (s.setV r b).v = s.v.set r.toNat b r.isLt := rfl
@[simp] theorem State.setV_i (r : Nibble) (b : Byte) : (s.setV r b).i = s.i := rfl
@[simp] theorem State.setV_pc (r : Nibble) (b : Byte) : (s.setV r b).pc = s.pc := rfl
@[simp] theorem State.setV_stk (r : Nibble) (b : Byte) : (s.setV r b).stk = s.stk := rfl
@[simp] theorem State.setV_sp (r : Nibble) (b : Byte) : (s.setV r b).sp = s.sp := rfl
@[simp] theorem State.setV_mem (r : Nibble) (b : Byte) : (s.setV r b).mem = s.mem := rfl
@[simp] theorem State.setV_fb (r : Nibble) (b : Byte) : (s.setV r b).fb = s.fb := rfl
@[simp] theorem State.setV_dt (r : Nibble) (b : Byte) : (s.setV r b).dt = s.dt := rfl
@[simp] theorem State.setV_st (r : Nibble) (b : Byte) : (s.setV r b).st = s.st := rfl
@[simp] theorem State.setV_keys (r : Nibble) (b : Byte) : (s.setV r b).keys = s.keys := rfl
@[simp] theorem State.setV_kwWait (r : Nibble) (b : Byte) : (s.setV r b).kwWait = s.kwWait := rfl
@[simp] theorem State.setV_kwValid (r : Nibble) (b : Byte) : (s.setV r b).kwValid = s.kwValid := rfl
@[simp] theorem State.setV_kwKey (r : Nibble) (b : Byte) : (s.setV r b).kwKey = s.kwKey := rfl
@[simp] theorem State.setV_halt (r : Nibble) (b : Byte) : (s.setV r b).halt = s.halt := rfl
@[simp] theorem State.setV_faultKind (r : Nibble) (b : Byte) : (s.setV r b).faultKind = s.faultKind := rfl
@[simp] theorem State.setV_faultPc (r : Nibble) (b : Byte) : (s.setV r b).faultPc = s.faultPc := rfl
@[simp] theorem State.setV_faultOp (r : Nibble) (b : Byte) : (s.setV r b).faultOp = s.faultOp := rfl
@[simp] theorem State.setV_draws (r : Nibble) (b : Byte) : (s.setV r b).draws = s.draws := rfl
@[simp] theorem State.setV_keyDown (r : Nibble) (b : Byte) (k' : Nibble) : (s.setV r b).keyDown k' = s.keyDown k' := rfl

/-! ### loadV -/

@[simp] theorem State.loadV_v (bs : List Byte) : (s.loadV bs).v = Vector.ofFn fun k => bs.getD k.val s.v[k.val] := rfl
@[simp] theorem State.loadV_i (bs : List Byte) : (s.loadV bs).i = s.i := rfl
@[simp] theorem State.loadV_pc (bs : List Byte) : (s.loadV bs).pc = s.pc := rfl
@[simp] theorem State.loadV_stk (bs : List Byte) : (s.loadV bs).stk = s.stk := rfl
@[simp] theorem State.loadV_sp (bs : List Byte) : (s.loadV bs).sp = s.sp := rfl
@[simp] theorem State.loadV_mem (bs : List Byte) : (s.loadV bs).mem = s.mem := rfl
@[simp] theorem State.loadV_fb (bs : List Byte) : (s.loadV bs).fb = s.fb := rfl
@[simp] theorem State.loadV_dt (bs : List Byte) : (s.loadV bs).dt = s.dt := rfl
@[simp] theorem State.loadV_st (bs : List Byte) : (s.loadV bs).st = s.st := rfl
@[simp] theorem State.loadV_keys (bs : List Byte) : (s.loadV bs).keys = s.keys := rfl
@[simp] theorem State.loadV_kwWait (bs : List Byte) : (s.loadV bs).kwWait = s.kwWait := rfl
@[simp] theorem State.loadV_kwValid (bs : List Byte) : (s.loadV bs).kwValid = s.kwValid := rfl
@[simp] theorem State.loadV_kwKey (bs : List Byte) : (s.loadV bs).kwKey = s.kwKey := rfl
@[simp] theorem State.loadV_halt (bs : List Byte) : (s.loadV bs).halt = s.halt := rfl
@[simp] theorem State.loadV_faultKind (bs : List Byte) : (s.loadV bs).faultKind = s.faultKind := rfl
@[simp] theorem State.loadV_faultPc (bs : List Byte) : (s.loadV bs).faultPc = s.faultPc := rfl
@[simp] theorem State.loadV_faultOp (bs : List Byte) : (s.loadV bs).faultOp = s.faultOp := rfl
@[simp] theorem State.loadV_draws (bs : List Byte) : (s.loadV bs).draws = s.draws := rfl
@[simp] theorem State.loadV_keyDown (bs : List Byte) (k' : Nibble) : (s.loadV bs).keyDown k' = s.keyDown k' := rfl

/-! ### setVFlag -/

@[simp] theorem State.setVFlag_v (x : Nibble) (b : Byte) (f : Bool) : (s.setVFlag x b f).v = ((s.setV x b).setV vf (flagByte f)).v := rfl
@[simp] theorem State.setVFlag_i (x : Nibble) (b : Byte) (f : Bool) : (s.setVFlag x b f).i = s.i := rfl
@[simp] theorem State.setVFlag_pc (x : Nibble) (b : Byte) (f : Bool) : (s.setVFlag x b f).pc = s.pc := rfl
@[simp] theorem State.setVFlag_stk (x : Nibble) (b : Byte) (f : Bool) : (s.setVFlag x b f).stk = s.stk := rfl
@[simp] theorem State.setVFlag_sp (x : Nibble) (b : Byte) (f : Bool) : (s.setVFlag x b f).sp = s.sp := rfl
@[simp] theorem State.setVFlag_mem (x : Nibble) (b : Byte) (f : Bool) : (s.setVFlag x b f).mem = s.mem := rfl
@[simp] theorem State.setVFlag_fb (x : Nibble) (b : Byte) (f : Bool) : (s.setVFlag x b f).fb = s.fb := rfl
@[simp] theorem State.setVFlag_dt (x : Nibble) (b : Byte) (f : Bool) : (s.setVFlag x b f).dt = s.dt := rfl
@[simp] theorem State.setVFlag_st (x : Nibble) (b : Byte) (f : Bool) : (s.setVFlag x b f).st = s.st := rfl
@[simp] theorem State.setVFlag_keys (x : Nibble) (b : Byte) (f : Bool) : (s.setVFlag x b f).keys = s.keys := rfl
@[simp] theorem State.setVFlag_kwWait (x : Nibble) (b : Byte) (f : Bool) : (s.setVFlag x b f).kwWait = s.kwWait := rfl
@[simp] theorem State.setVFlag_kwValid (x : Nibble) (b : Byte) (f : Bool) : (s.setVFlag x b f).kwValid = s.kwValid := rfl
@[simp] theorem State.setVFlag_kwKey (x : Nibble) (b : Byte) (f : Bool) : (s.setVFlag x b f).kwKey = s.kwKey := rfl
@[simp] theorem State.setVFlag_halt (x : Nibble) (b : Byte) (f : Bool) : (s.setVFlag x b f).halt = s.halt := rfl
@[simp] theorem State.setVFlag_faultKind (x : Nibble) (b : Byte) (f : Bool) : (s.setVFlag x b f).faultKind = s.faultKind := rfl
@[simp] theorem State.setVFlag_faultPc (x : Nibble) (b : Byte) (f : Bool) : (s.setVFlag x b f).faultPc = s.faultPc := rfl
@[simp] theorem State.setVFlag_faultOp (x : Nibble) (b : Byte) (f : Bool) : (s.setVFlag x b f).faultOp = s.faultOp := rfl
@[simp] theorem State.setVFlag_draws (x : Nibble) (b : Byte) (f : Bool) : (s.setVFlag x b f).draws = s.draws := rfl
@[simp] theorem State.setVFlag_keyDown (x : Nibble) (b : Byte) (f : Bool) (k' : Nibble) : (s.setVFlag x b f).keyDown k' = s.keyDown k' := rfl

/-! ### setI -/

@[simp] theorem State.setI_v (w : Word) : (s.setI w).v = s.v := rfl
@[simp] theorem State.setI_i (w : Word) : (s.setI w).i = w := rfl
@[simp] theorem State.setI_pc (w : Word) : (s.setI w).pc = s.pc := rfl
@[simp] theorem State.setI_stk (w : Word) : (s.setI w).stk = s.stk := rfl
@[simp] theorem State.setI_sp (w : Word) : (s.setI w).sp = s.sp := rfl
@[simp] theorem State.setI_mem (w : Word) : (s.setI w).mem = s.mem := rfl
@[simp] theorem State.setI_fb (w : Word) : (s.setI w).fb = s.fb := rfl
@[simp] theorem State.setI_dt (w : Word) : (s.setI w).dt = s.dt := rfl
@[simp] theorem State.setI_st (w : Word) : (s.setI w).st = s.st := rfl
@[simp] theorem State.setI_keys (w : Word) : (s.setI w).keys = s.keys := rfl
@[simp] theorem State.setI_kwWait (w : Word) : (s.setI w).kwWait = s.kwWait := rfl
@[simp] theorem State.setI_kwValid (w : Word) : (s.setI w).kwValid = s.kwValid := rfl
@[simp] theorem State.setI_kwKey (w : Word) : (s.setI w).kwKey = s.kwKey := rfl
@[simp] theorem State.setI_halt (w : Word) : (s.setI w).halt = s.halt := rfl
@[simp] theorem State.setI_faultKind (w : Word) : (s.setI w).faultKind = s.faultKind := rfl
@[simp] theorem State.setI_faultPc (w : Word) : (s.setI w).faultPc = s.faultPc := rfl
@[simp] theorem State.setI_faultOp (w : Word) : (s.setI w).faultOp = s.faultOp := rfl
@[simp] theorem State.setI_draws (w : Word) : (s.setI w).draws = s.draws := rfl
@[simp] theorem State.setI_getV (w : Word) (r' : Nibble) : (s.setI w).getV r' = s.getV r' := rfl
@[simp] theorem State.setI_keyDown (w : Word) (k' : Nibble) : (s.setI w).keyDown k' = s.keyDown k' := rfl

/-! ### setPc -/

@[simp] theorem State.setPc_v (w : Word) : (s.setPc w).v = s.v := rfl
@[simp] theorem State.setPc_i (w : Word) : (s.setPc w).i = s.i := rfl
@[simp] theorem State.setPc_pc (w : Word) : (s.setPc w).pc = w := rfl
@[simp] theorem State.setPc_stk (w : Word) : (s.setPc w).stk = s.stk := rfl
@[simp] theorem State.setPc_sp (w : Word) : (s.setPc w).sp = s.sp := rfl
@[simp] theorem State.setPc_mem (w : Word) : (s.setPc w).mem = s.mem := rfl
@[simp] theorem State.setPc_fb (w : Word) : (s.setPc w).fb = s.fb := rfl
@[simp] theorem State.setPc_dt (w : Word) : (s.setPc w).dt = s.dt := rfl
@[simp] theorem State.setPc_st (w : Word) : (s.setPc w).st = s.st := rfl
@[simp] theorem State.setPc_keys (w : Word) : (s.setPc w).keys = s.keys := rfl
@[simp] theorem State.setPc_kwWait (w : Word) : (s.setPc w).kwWait = s.kwWait := rfl
@[simp] theorem State.setPc_kwValid (w : Word) : (s.setPc w).kwValid = s.kwValid := rfl
@[simp] theorem State.setPc_kwKey (w : Word) : (s.setPc w).kwKey = s.kwKey := rfl
@[simp] theorem State.setPc_halt (w : Word) : (s.setPc w).halt = s.halt := rfl
@[simp] theorem State.setPc_faultKind (w : Word) : (s.setPc w).faultKind = s.faultKind := rfl
@[simp] theorem State.setPc_faultPc (w : Word) : (s.setPc w).faultPc = s.faultPc := rfl
@[simp] theorem State.setPc_faultOp (w : Word) : (s.setPc w).faultOp = s.faultOp := rfl
@[simp] theorem State.setPc_draws (w : Word) : (s.setPc w).draws = s.draws := rfl
@[simp] theorem State.setPc_getV (w : Word) (r' : Nibble) : (s.setPc w).getV r' = s.getV r' := rfl
@[simp] theorem State.setPc_keyDown (w : Word) (k' : Nibble) : (s.setPc w).keyDown k' = s.keyDown k' := rfl

/-! ### advance -/

@[simp] theorem State.advance_v : s.advance.v = s.v := rfl
@[simp] theorem State.advance_i : s.advance.i = s.i := rfl
@[simp] theorem State.advance_pc : s.advance.pc = s.pc + 2#16 := rfl
@[simp] theorem State.advance_stk : s.advance.stk = s.stk := rfl
@[simp] theorem State.advance_sp : s.advance.sp = s.sp := rfl
@[simp] theorem State.advance_mem : s.advance.mem = s.mem := rfl
@[simp] theorem State.advance_fb : s.advance.fb = s.fb := rfl
@[simp] theorem State.advance_dt : s.advance.dt = s.dt := rfl
@[simp] theorem State.advance_st : s.advance.st = s.st := rfl
@[simp] theorem State.advance_keys : s.advance.keys = s.keys := rfl
@[simp] theorem State.advance_kwWait : s.advance.kwWait = s.kwWait := rfl
@[simp] theorem State.advance_kwValid : s.advance.kwValid = s.kwValid := rfl
@[simp] theorem State.advance_kwKey : s.advance.kwKey = s.kwKey := rfl
@[simp] theorem State.advance_halt : s.advance.halt = s.halt := rfl
@[simp] theorem State.advance_faultKind : s.advance.faultKind = s.faultKind := rfl
@[simp] theorem State.advance_faultPc : s.advance.faultPc = s.faultPc := rfl
@[simp] theorem State.advance_faultOp : s.advance.faultOp = s.faultOp := rfl
@[simp] theorem State.advance_draws : s.advance.draws = s.draws := rfl
@[simp] theorem State.advance_getV (r' : Nibble) : s.advance.getV r' = s.getV r' := rfl
@[simp] theorem State.advance_keyDown (k' : Nibble) : s.advance.keyDown k' = s.keyDown k' := rfl

/-! ### skipIf -/

@[simp] theorem State.skipIf_v (c : Bool) : (s.skipIf c).v = s.v := rfl
@[simp] theorem State.skipIf_i (c : Bool) : (s.skipIf c).i = s.i := rfl
@[simp] theorem State.skipIf_pc (c : Bool) : (s.skipIf c).pc = if c then s.npc + 2#16 else s.npc := rfl
@[simp] theorem State.skipIf_stk (c : Bool) : (s.skipIf c).stk = s.stk := rfl
@[simp] theorem State.skipIf_sp (c : Bool) : (s.skipIf c).sp = s.sp := rfl
@[simp] theorem State.skipIf_mem (c : Bool) : (s.skipIf c).mem = s.mem := rfl
@[simp] theorem State.skipIf_fb (c : Bool) : (s.skipIf c).fb = s.fb := rfl
@[simp] theorem State.skipIf_dt (c : Bool) : (s.skipIf c).dt = s.dt := rfl
@[simp] theorem State.skipIf_st (c : Bool) : (s.skipIf c).st = s.st := rfl
@[simp] theorem State.skipIf_keys (c : Bool) : (s.skipIf c).keys = s.keys := rfl
@[simp] theorem State.skipIf_kwWait (c : Bool) : (s.skipIf c).kwWait = s.kwWait := rfl
@[simp] theorem State.skipIf_kwValid (c : Bool) : (s.skipIf c).kwValid = s.kwValid := rfl
@[simp] theorem State.skipIf_kwKey (c : Bool) : (s.skipIf c).kwKey = s.kwKey := rfl
@[simp] theorem State.skipIf_halt (c : Bool) : (s.skipIf c).halt = s.halt := rfl
@[simp] theorem State.skipIf_faultKind (c : Bool) : (s.skipIf c).faultKind = s.faultKind := rfl
@[simp] theorem State.skipIf_faultPc (c : Bool) : (s.skipIf c).faultPc = s.faultPc := rfl
@[simp] theorem State.skipIf_faultOp (c : Bool) : (s.skipIf c).faultOp = s.faultOp := rfl
@[simp] theorem State.skipIf_draws (c : Bool) : (s.skipIf c).draws = s.draws := rfl
@[simp] theorem State.skipIf_getV (c : Bool) (r' : Nibble) : (s.skipIf c).getV r' = s.getV r' := rfl
@[simp] theorem State.skipIf_keyDown (c : Bool) (k' : Nibble) : (s.skipIf c).keyDown k' = s.keyDown k' := rfl

/-! ### setMem -/

@[simp] theorem State.setMem_v (m : Memory) : (s.setMem m).v = s.v := rfl
@[simp] theorem State.setMem_i (m : Memory) : (s.setMem m).i = s.i := rfl
@[simp] theorem State.setMem_pc (m : Memory) : (s.setMem m).pc = s.pc := rfl
@[simp] theorem State.setMem_stk (m : Memory) : (s.setMem m).stk = s.stk := rfl
@[simp] theorem State.setMem_sp (m : Memory) : (s.setMem m).sp = s.sp := rfl
@[simp] theorem State.setMem_mem (m : Memory) : (s.setMem m).mem = m := rfl
@[simp] theorem State.setMem_fb (m : Memory) : (s.setMem m).fb = s.fb := rfl
@[simp] theorem State.setMem_dt (m : Memory) : (s.setMem m).dt = s.dt := rfl
@[simp] theorem State.setMem_st (m : Memory) : (s.setMem m).st = s.st := rfl
@[simp] theorem State.setMem_keys (m : Memory) : (s.setMem m).keys = s.keys := rfl
@[simp] theorem State.setMem_kwWait (m : Memory) : (s.setMem m).kwWait = s.kwWait := rfl
@[simp] theorem State.setMem_kwValid (m : Memory) : (s.setMem m).kwValid = s.kwValid := rfl
@[simp] theorem State.setMem_kwKey (m : Memory) : (s.setMem m).kwKey = s.kwKey := rfl
@[simp] theorem State.setMem_halt (m : Memory) : (s.setMem m).halt = s.halt := rfl
@[simp] theorem State.setMem_faultKind (m : Memory) : (s.setMem m).faultKind = s.faultKind := rfl
@[simp] theorem State.setMem_faultPc (m : Memory) : (s.setMem m).faultPc = s.faultPc := rfl
@[simp] theorem State.setMem_faultOp (m : Memory) : (s.setMem m).faultOp = s.faultOp := rfl
@[simp] theorem State.setMem_draws (m : Memory) : (s.setMem m).draws = s.draws := rfl
@[simp] theorem State.setMem_getV (m : Memory) (r' : Nibble) : (s.setMem m).getV r' = s.getV r' := rfl
@[simp] theorem State.setMem_keyDown (m : Memory) (k' : Nibble) : (s.setMem m).keyDown k' = s.keyDown k' := rfl

/-! ### setFb -/

@[simp] theorem State.setFb_v (fb : FrameBuffer) : (s.setFb fb).v = s.v := rfl
@[simp] theorem State.setFb_i (fb : FrameBuffer) : (s.setFb fb).i = s.i := rfl
@[simp] theorem State.setFb_pc (fb : FrameBuffer) : (s.setFb fb).pc = s.pc := rfl
@[simp] theorem State.setFb_stk (fb : FrameBuffer) : (s.setFb fb).stk = s.stk := rfl
@[simp] theorem State.setFb_sp (fb : FrameBuffer) : (s.setFb fb).sp = s.sp := rfl
@[simp] theorem State.setFb_mem (fb : FrameBuffer) : (s.setFb fb).mem = s.mem := rfl
@[simp] theorem State.setFb_fb (fb : FrameBuffer) : (s.setFb fb).fb = fb := rfl
@[simp] theorem State.setFb_dt (fb : FrameBuffer) : (s.setFb fb).dt = s.dt := rfl
@[simp] theorem State.setFb_st (fb : FrameBuffer) : (s.setFb fb).st = s.st := rfl
@[simp] theorem State.setFb_keys (fb : FrameBuffer) : (s.setFb fb).keys = s.keys := rfl
@[simp] theorem State.setFb_kwWait (fb : FrameBuffer) : (s.setFb fb).kwWait = s.kwWait := rfl
@[simp] theorem State.setFb_kwValid (fb : FrameBuffer) : (s.setFb fb).kwValid = s.kwValid := rfl
@[simp] theorem State.setFb_kwKey (fb : FrameBuffer) : (s.setFb fb).kwKey = s.kwKey := rfl
@[simp] theorem State.setFb_halt (fb : FrameBuffer) : (s.setFb fb).halt = s.halt := rfl
@[simp] theorem State.setFb_faultKind (fb : FrameBuffer) : (s.setFb fb).faultKind = s.faultKind := rfl
@[simp] theorem State.setFb_faultPc (fb : FrameBuffer) : (s.setFb fb).faultPc = s.faultPc := rfl
@[simp] theorem State.setFb_faultOp (fb : FrameBuffer) : (s.setFb fb).faultOp = s.faultOp := rfl
@[simp] theorem State.setFb_draws (fb : FrameBuffer) : (s.setFb fb).draws = s.draws := rfl
@[simp] theorem State.setFb_getV (fb : FrameBuffer) (r' : Nibble) : (s.setFb fb).getV r' = s.getV r' := rfl
@[simp] theorem State.setFb_keyDown (fb : FrameBuffer) (k' : Nibble) : (s.setFb fb).keyDown k' = s.keyDown k' := rfl

/-! ### setDt -/

@[simp] theorem State.setDt_v (b : Byte) : (s.setDt b).v = s.v := rfl
@[simp] theorem State.setDt_i (b : Byte) : (s.setDt b).i = s.i := rfl
@[simp] theorem State.setDt_pc (b : Byte) : (s.setDt b).pc = s.pc := rfl
@[simp] theorem State.setDt_stk (b : Byte) : (s.setDt b).stk = s.stk := rfl
@[simp] theorem State.setDt_sp (b : Byte) : (s.setDt b).sp = s.sp := rfl
@[simp] theorem State.setDt_mem (b : Byte) : (s.setDt b).mem = s.mem := rfl
@[simp] theorem State.setDt_fb (b : Byte) : (s.setDt b).fb = s.fb := rfl
@[simp] theorem State.setDt_dt (b : Byte) : (s.setDt b).dt = b := rfl
@[simp] theorem State.setDt_st (b : Byte) : (s.setDt b).st = s.st := rfl
@[simp] theorem State.setDt_keys (b : Byte) : (s.setDt b).keys = s.keys := rfl
@[simp] theorem State.setDt_kwWait (b : Byte) : (s.setDt b).kwWait = s.kwWait := rfl
@[simp] theorem State.setDt_kwValid (b : Byte) : (s.setDt b).kwValid = s.kwValid := rfl
@[simp] theorem State.setDt_kwKey (b : Byte) : (s.setDt b).kwKey = s.kwKey := rfl
@[simp] theorem State.setDt_halt (b : Byte) : (s.setDt b).halt = s.halt := rfl
@[simp] theorem State.setDt_faultKind (b : Byte) : (s.setDt b).faultKind = s.faultKind := rfl
@[simp] theorem State.setDt_faultPc (b : Byte) : (s.setDt b).faultPc = s.faultPc := rfl
@[simp] theorem State.setDt_faultOp (b : Byte) : (s.setDt b).faultOp = s.faultOp := rfl
@[simp] theorem State.setDt_draws (b : Byte) : (s.setDt b).draws = s.draws := rfl
@[simp] theorem State.setDt_getV (b : Byte) (r' : Nibble) : (s.setDt b).getV r' = s.getV r' := rfl
@[simp] theorem State.setDt_keyDown (b : Byte) (k' : Nibble) : (s.setDt b).keyDown k' = s.keyDown k' := rfl

/-! ### setSt -/

@[simp] theorem State.setSt_v (b : Byte) : (s.setSt b).v = s.v := rfl
@[simp] theorem State.setSt_i (b : Byte) : (s.setSt b).i = s.i := rfl
@[simp] theorem State.setSt_pc (b : Byte) : (s.setSt b).pc = s.pc := rfl
@[simp] theorem State.setSt_stk (b : Byte) : (s.setSt b).stk = s.stk := rfl
@[simp] theorem State.setSt_sp (b : Byte) : (s.setSt b).sp = s.sp := rfl
@[simp] theorem State.setSt_mem (b : Byte) : (s.setSt b).mem = s.mem := rfl
@[simp] theorem State.setSt_fb (b : Byte) : (s.setSt b).fb = s.fb := rfl
@[simp] theorem State.setSt_dt (b : Byte) : (s.setSt b).dt = s.dt := rfl
@[simp] theorem State.setSt_st (b : Byte) : (s.setSt b).st = b := rfl
@[simp] theorem State.setSt_keys (b : Byte) : (s.setSt b).keys = s.keys := rfl
@[simp] theorem State.setSt_kwWait (b : Byte) : (s.setSt b).kwWait = s.kwWait := rfl
@[simp] theorem State.setSt_kwValid (b : Byte) : (s.setSt b).kwValid = s.kwValid := rfl
@[simp] theorem State.setSt_kwKey (b : Byte) : (s.setSt b).kwKey = s.kwKey := rfl
@[simp] theorem State.setSt_halt (b : Byte) : (s.setSt b).halt = s.halt := rfl
@[simp] theorem State.setSt_faultKind (b : Byte) : (s.setSt b).faultKind = s.faultKind := rfl
@[simp] theorem State.setSt_faultPc (b : Byte) : (s.setSt b).faultPc = s.faultPc := rfl
@[simp] theorem State.setSt_faultOp (b : Byte) : (s.setSt b).faultOp = s.faultOp := rfl
@[simp] theorem State.setSt_draws (b : Byte) : (s.setSt b).draws = s.draws := rfl
@[simp] theorem State.setSt_getV (b : Byte) (r' : Nibble) : (s.setSt b).getV r' = s.getV r' := rfl
@[simp] theorem State.setSt_keyDown (b : Byte) (k' : Nibble) : (s.setSt b).keyDown k' = s.keyDown k' := rfl

/-! ### setKey -/

@[simp] theorem State.setKey_v (k : Nibble) (d : Bool) : (s.setKey k d).v = s.v := rfl
@[simp] theorem State.setKey_i (k : Nibble) (d : Bool) : (s.setKey k d).i = s.i := rfl
@[simp] theorem State.setKey_pc (k : Nibble) (d : Bool) : (s.setKey k d).pc = s.pc := rfl
@[simp] theorem State.setKey_stk (k : Nibble) (d : Bool) : (s.setKey k d).stk = s.stk := rfl
@[simp] theorem State.setKey_sp (k : Nibble) (d : Bool) : (s.setKey k d).sp = s.sp := rfl
@[simp] theorem State.setKey_mem (k : Nibble) (d : Bool) : (s.setKey k d).mem = s.mem := rfl
@[simp] theorem State.setKey_fb (k : Nibble) (d : Bool) : (s.setKey k d).fb = s.fb := rfl
@[simp] theorem State.setKey_dt (k : Nibble) (d : Bool) : (s.setKey k d).dt = s.dt := rfl
@[simp] theorem State.setKey_st (k : Nibble) (d : Bool) : (s.setKey k d).st = s.st := rfl
@[simp] theorem State.setKey_keys (k : Nibble) (d : Bool) : (s.setKey k d).keys = s.keys.set k.toNat d k.isLt := rfl
@[simp] theorem State.setKey_kwWait (k : Nibble) (d : Bool) : (s.setKey k d).kwWait = s.kwWait := rfl
@[simp] theorem State.setKey_kwValid (k : Nibble) (d : Bool) : (s.setKey k d).kwValid = s.kwValid := rfl
@[simp] theorem State.setKey_kwKey (k : Nibble) (d : Bool) : (s.setKey k d).kwKey = s.kwKey := rfl
@[simp] theorem State.setKey_halt (k : Nibble) (d : Bool) : (s.setKey k d).halt = s.halt := rfl
@[simp] theorem State.setKey_faultKind (k : Nibble) (d : Bool) : (s.setKey k d).faultKind = s.faultKind := rfl
@[simp] theorem State.setKey_faultPc (k : Nibble) (d : Bool) : (s.setKey k d).faultPc = s.faultPc := rfl
@[simp] theorem State.setKey_faultOp (k : Nibble) (d : Bool) : (s.setKey k d).faultOp = s.faultOp := rfl
@[simp] theorem State.setKey_draws (k : Nibble) (d : Bool) : (s.setKey k d).draws = s.draws := rfl
@[simp] theorem State.setKey_getV (k : Nibble) (d : Bool) (r' : Nibble) : (s.setKey k d).getV r' = s.getV r' := rfl

/-! ### arm -/

@[simp] theorem State.arm_v : s.arm.v = s.v := rfl
@[simp] theorem State.arm_i : s.arm.i = s.i := rfl
@[simp] theorem State.arm_pc : s.arm.pc = s.pc := rfl
@[simp] theorem State.arm_stk : s.arm.stk = s.stk := rfl
@[simp] theorem State.arm_sp : s.arm.sp = s.sp := rfl
@[simp] theorem State.arm_mem : s.arm.mem = s.mem := rfl
@[simp] theorem State.arm_fb : s.arm.fb = s.fb := rfl
@[simp] theorem State.arm_dt : s.arm.dt = s.dt := rfl
@[simp] theorem State.arm_st : s.arm.st = s.st := rfl
@[simp] theorem State.arm_keys : s.arm.keys = s.keys := rfl
@[simp] theorem State.arm_kwWait : s.arm.kwWait = true := rfl
@[simp] theorem State.arm_kwValid : s.arm.kwValid = false := rfl
@[simp] theorem State.arm_kwKey : s.arm.kwKey = s.kwKey := rfl
@[simp] theorem State.arm_halt : s.arm.halt = s.halt := rfl
@[simp] theorem State.arm_faultKind : s.arm.faultKind = s.faultKind := rfl
@[simp] theorem State.arm_faultPc : s.arm.faultPc = s.faultPc := rfl
@[simp] theorem State.arm_faultOp : s.arm.faultOp = s.faultOp := rfl
@[simp] theorem State.arm_draws : s.arm.draws = s.draws := rfl
@[simp] theorem State.arm_getV (r' : Nibble) : s.arm.getV r' = s.getV r' := rfl
@[simp] theorem State.arm_keyDown (k' : Nibble) : s.arm.keyDown k' = s.keyDown k' := rfl

/-! ### disarm -/

@[simp] theorem State.disarm_v : s.disarm.v = s.v := rfl
@[simp] theorem State.disarm_i : s.disarm.i = s.i := rfl
@[simp] theorem State.disarm_pc : s.disarm.pc = s.pc := rfl
@[simp] theorem State.disarm_stk : s.disarm.stk = s.stk := rfl
@[simp] theorem State.disarm_sp : s.disarm.sp = s.sp := rfl
@[simp] theorem State.disarm_mem : s.disarm.mem = s.mem := rfl
@[simp] theorem State.disarm_fb : s.disarm.fb = s.fb := rfl
@[simp] theorem State.disarm_dt : s.disarm.dt = s.dt := rfl
@[simp] theorem State.disarm_st : s.disarm.st = s.st := rfl
@[simp] theorem State.disarm_keys : s.disarm.keys = s.keys := rfl
@[simp] theorem State.disarm_kwWait : s.disarm.kwWait = false := rfl
@[simp] theorem State.disarm_kwValid : s.disarm.kwValid = false := rfl
@[simp] theorem State.disarm_kwKey : s.disarm.kwKey = s.kwKey := rfl
@[simp] theorem State.disarm_halt : s.disarm.halt = s.halt := rfl
@[simp] theorem State.disarm_faultKind : s.disarm.faultKind = s.faultKind := rfl
@[simp] theorem State.disarm_faultPc : s.disarm.faultPc = s.faultPc := rfl
@[simp] theorem State.disarm_faultOp : s.disarm.faultOp = s.faultOp := rfl
@[simp] theorem State.disarm_draws : s.disarm.draws = s.draws := rfl
@[simp] theorem State.disarm_getV (r' : Nibble) : s.disarm.getV r' = s.getV r' := rfl
@[simp] theorem State.disarm_keyDown (k' : Nibble) : s.disarm.keyDown k' = s.keyDown k' := rfl

/-! ### capture -/

@[simp] theorem State.capture_v (k : Nibble) : (s.capture k).v = s.v := rfl
@[simp] theorem State.capture_i (k : Nibble) : (s.capture k).i = s.i := rfl
@[simp] theorem State.capture_pc (k : Nibble) : (s.capture k).pc = s.pc := rfl
@[simp] theorem State.capture_stk (k : Nibble) : (s.capture k).stk = s.stk := rfl
@[simp] theorem State.capture_sp (k : Nibble) : (s.capture k).sp = s.sp := rfl
@[simp] theorem State.capture_mem (k : Nibble) : (s.capture k).mem = s.mem := rfl
@[simp] theorem State.capture_fb (k : Nibble) : (s.capture k).fb = s.fb := rfl
@[simp] theorem State.capture_dt (k : Nibble) : (s.capture k).dt = s.dt := rfl
@[simp] theorem State.capture_st (k : Nibble) : (s.capture k).st = s.st := rfl
@[simp] theorem State.capture_keys (k : Nibble) : (s.capture k).keys = s.keys := rfl
@[simp] theorem State.capture_kwWait (k : Nibble) : (s.capture k).kwWait = s.kwWait := rfl
@[simp] theorem State.capture_kwValid (k : Nibble) : (s.capture k).kwValid = true := rfl
@[simp] theorem State.capture_kwKey (k : Nibble) : (s.capture k).kwKey = k := rfl
@[simp] theorem State.capture_halt (k : Nibble) : (s.capture k).halt = s.halt := rfl
@[simp] theorem State.capture_faultKind (k : Nibble) : (s.capture k).faultKind = s.faultKind := rfl
@[simp] theorem State.capture_faultPc (k : Nibble) : (s.capture k).faultPc = s.faultPc := rfl
@[simp] theorem State.capture_faultOp (k : Nibble) : (s.capture k).faultOp = s.faultOp := rfl
@[simp] theorem State.capture_draws (k : Nibble) : (s.capture k).draws = s.draws := rfl
@[simp] theorem State.capture_getV (k : Nibble) (r' : Nibble) : (s.capture k).getV r' = s.getV r' := rfl
@[simp] theorem State.capture_keyDown (k : Nibble) (k' : Nibble) : (s.capture k).keyDown k' = s.keyDown k' := rfl

/-! ### countDraw -/

@[simp] theorem State.countDraw_v : s.countDraw.v = s.v := rfl
@[simp] theorem State.countDraw_i : s.countDraw.i = s.i := rfl
@[simp] theorem State.countDraw_pc : s.countDraw.pc = s.pc := rfl
@[simp] theorem State.countDraw_stk : s.countDraw.stk = s.stk := rfl
@[simp] theorem State.countDraw_sp : s.countDraw.sp = s.sp := rfl
@[simp] theorem State.countDraw_mem : s.countDraw.mem = s.mem := rfl
@[simp] theorem State.countDraw_fb : s.countDraw.fb = s.fb := rfl
@[simp] theorem State.countDraw_dt : s.countDraw.dt = s.dt := rfl
@[simp] theorem State.countDraw_st : s.countDraw.st = s.st := rfl
@[simp] theorem State.countDraw_keys : s.countDraw.keys = s.keys := rfl
@[simp] theorem State.countDraw_kwWait : s.countDraw.kwWait = s.kwWait := rfl
@[simp] theorem State.countDraw_kwValid : s.countDraw.kwValid = s.kwValid := rfl
@[simp] theorem State.countDraw_kwKey : s.countDraw.kwKey = s.kwKey := rfl
@[simp] theorem State.countDraw_halt : s.countDraw.halt = s.halt := rfl
@[simp] theorem State.countDraw_faultKind : s.countDraw.faultKind = s.faultKind := rfl
@[simp] theorem State.countDraw_faultPc : s.countDraw.faultPc = s.faultPc := rfl
@[simp] theorem State.countDraw_faultOp : s.countDraw.faultOp = s.faultOp := rfl
@[simp] theorem State.countDraw_draws : s.countDraw.draws = s.draws + 1 := rfl
@[simp] theorem State.countDraw_getV (r' : Nibble) : s.countDraw.getV r' = s.getV r' := rfl
@[simp] theorem State.countDraw_keyDown (k' : Nibble) : s.countDraw.keyDown k' = s.keyDown k' := rfl

/-! ### latch -/

@[simp] theorem State.latch_v (k : ErrorKind) (op : Word) : (s.latch k op).v = s.v := rfl
@[simp] theorem State.latch_i (k : ErrorKind) (op : Word) : (s.latch k op).i = s.i := rfl
@[simp] theorem State.latch_pc (k : ErrorKind) (op : Word) : (s.latch k op).pc = s.pc := rfl
@[simp] theorem State.latch_stk (k : ErrorKind) (op : Word) : (s.latch k op).stk = s.stk := rfl
@[simp] theorem State.latch_sp (k : ErrorKind) (op : Word) : (s.latch k op).sp = s.sp := rfl
@[simp] theorem State.latch_mem (k : ErrorKind) (op : Word) : (s.latch k op).mem = s.mem := rfl
@[simp] theorem State.latch_fb (k : ErrorKind) (op : Word) : (s.latch k op).fb = s.fb := rfl
@[simp] theorem State.latch_dt (k : ErrorKind) (op : Word) : (s.latch k op).dt = s.dt := rfl
@[simp] theorem State.latch_st (k : ErrorKind) (op : Word) : (s.latch k op).st = s.st := rfl
@[simp] theorem State.latch_keys (k : ErrorKind) (op : Word) : (s.latch k op).keys = s.keys := rfl
@[simp] theorem State.latch_kwWait (k : ErrorKind) (op : Word) : (s.latch k op).kwWait = s.kwWait := rfl
@[simp] theorem State.latch_kwValid (k : ErrorKind) (op : Word) : (s.latch k op).kwValid = s.kwValid := rfl
@[simp] theorem State.latch_kwKey (k : ErrorKind) (op : Word) : (s.latch k op).kwKey = s.kwKey := rfl
@[simp] theorem State.latch_halt (k : ErrorKind) (op : Word) : (s.latch k op).halt = true := rfl
@[simp] theorem State.latch_faultKind (k : ErrorKind) (op : Word) : (s.latch k op).faultKind = k.code := rfl
@[simp] theorem State.latch_faultPc (k : ErrorKind) (op : Word) : (s.latch k op).faultPc = s.pc := rfl
@[simp] theorem State.latch_faultOp (k : ErrorKind) (op : Word) : (s.latch k op).faultOp = op := rfl
@[simp] theorem State.latch_draws (k : ErrorKind) (op : Word) : (s.latch k op).draws = s.draws := rfl
@[simp] theorem State.latch_getV (k : ErrorKind) (op : Word) (r' : Nibble) : (s.latch k op).getV r' = s.getV r' := rfl
@[simp] theorem State.latch_keyDown (k : ErrorKind) (op : Word) (k' : Nibble) : (s.latch k op).keyDown k' = s.keyDown k' := rfl

/-! ### doReset -/

@[simp] theorem State.doReset_v : s.doReset.v = State.reset.v := rfl
@[simp] theorem State.doReset_i : s.doReset.i = State.reset.i := rfl
@[simp] theorem State.doReset_pc : s.doReset.pc = State.reset.pc := rfl
@[simp] theorem State.doReset_stk : s.doReset.stk = State.reset.stk := rfl
@[simp] theorem State.doReset_sp : s.doReset.sp = State.reset.sp := rfl
@[simp] theorem State.doReset_mem : s.doReset.mem = State.reset.mem := rfl
@[simp] theorem State.doReset_fb : s.doReset.fb = State.reset.fb := rfl
@[simp] theorem State.doReset_dt : s.doReset.dt = State.reset.dt := rfl
@[simp] theorem State.doReset_st : s.doReset.st = State.reset.st := rfl
@[simp] theorem State.doReset_keys : s.doReset.keys = State.reset.keys := rfl
@[simp] theorem State.doReset_kwWait : s.doReset.kwWait = State.reset.kwWait := rfl
@[simp] theorem State.doReset_kwValid : s.doReset.kwValid = State.reset.kwValid := rfl
@[simp] theorem State.doReset_kwKey : s.doReset.kwKey = State.reset.kwKey := rfl
@[simp] theorem State.doReset_halt : s.doReset.halt = State.reset.halt := rfl
@[simp] theorem State.doReset_faultKind : s.doReset.faultKind = State.reset.faultKind := rfl
@[simp] theorem State.doReset_faultPc : s.doReset.faultPc = State.reset.faultPc := rfl
@[simp] theorem State.doReset_faultOp : s.doReset.faultOp = State.reset.faultOp := rfl
@[simp] theorem State.doReset_draws : s.doReset.draws = s.draws := rfl

/-! ### npc -/

@[simp] theorem State.npc_eq : s.npc = s.pc + 2#16 := rfl

end Sys2Proof.Machine
end

