-- ==== Sys2Proof/Laws/Registers.lean ====
section
/-! SUPPORT. What register, key, stack and flag operations do: a read after a write, and everything a push or a pop can
answer. -/

namespace Sys2Proof.Machine

variable (s : State)

theorem nibble_toNat_ne {r r' : Nibble} (h : r ≠ r') : r.toNat ≠ r'.toNat := fun e => h (BitVec.eq_of_toNat_eq e)

theorem State.getV_setV (r r' : Nibble) (b : Byte) : (s.setV r b).getV r' = if r' = r then b else s.getV r' := by
  by_cases h : r' = r
  · subst h; simp [State.getV, State.setV]
  · have := nibble_toNat_ne (Ne.symm h)
    simp [State.getV, State.setV, h, this]

@[simp] theorem State.getV_setV_same (r : Nibble) (b : Byte) : (s.setV r b).getV r = b := by simp [State.getV_setV]

theorem State.getV_setV_other {r r' : Nibble} (h : r' ≠ r) (b : Byte) : (s.setV r b).getV r' = s.getV r' := by
  simp [State.getV_setV, h]

/-- Two states whose V registers read alike hold the same registers. -/
theorem State.v_ext {s t : State} (h : ∀ r, s.getV r = t.getV r) : s.v = t.v := by
  apply Vector.ext
  intro k hk
  have := h (BitVec.ofNat 4 k)
  have hk' : k % 16 = k := Nat.mod_eq_of_lt hk
  simpa [State.getV, BitVec.toNat_ofNat, hk'] using this

/-- A flag-defining instruction's commit: the flag is what VF holds, whatever X is (42_alu.md R168). -/
@[simp] theorem State.getV_setVFlag_vf (x : Nibble) (b : Byte) (f : Bool) : (s.setVFlag x b f).getV vf = flagByte f := by
  simp [State.setVFlag]

theorem State.getV_setVFlag (x r : Nibble) (b : Byte) (f : Bool) :
    (s.setVFlag x b f).getV r = if r = vf then flagByte f else if r = x then b else s.getV r := by
  simp only [State.setVFlag, State.getV_setV]

/-- A register range load writes exactly the registers the list covers (43_index_memory.md R200). -/
theorem State.getV_loadV (bs : List Byte) (r : Nibble) : (s.loadV bs).getV r = bs.getD r.toNat (s.getV r) := by
  simp [State.getV, State.loadV]

@[simp] theorem State.length_firstV (x : Nibble) : (s.firstV x).length = x.toNat + 1 := by
  have := x.isLt
  simp [State.firstV]; omega

/-- The `k`-th byte of a register range is `V[k]` (43_index_memory.md R198). -/
theorem State.getElem_firstV (x k : Nibble) (h : k.toNat < (s.firstV x).length) : (s.firstV x)[k.toNat] = s.getV k := by
  simp [State.firstV, State.getV]

theorem State.keyDown_setKey (k k' : Nibble) (d : Bool) :
    (s.setKey k d).keyDown k' = if k' = k then d else s.keyDown k' := by
  by_cases h : k' = k
  · subst h; simp [State.keyDown, State.setKey]
  · have := nibble_toNat_ne (Ne.symm h)
    simp [State.keyDown, State.setKey, h, this]

/-- Everything a push can answer (10_state.md R27, R28). -/
theorem State.push?_cases (w : Word) :
    (∃ h : s.sp.val < Config.stackDepth, s.push? w =
      some { s with stk := s.stk.set s.sp.val w h, sp := ⟨s.sp.val + 1, Nat.succ_lt_succ h⟩ }) ∨
    (s.sp.val = Config.stackDepth ∧ s.push? w = none) := by
  unfold State.push?
  split
  · rename_i h; exact .inl ⟨h, rfl⟩
  · have := s.sp.isLt; exact .inr ⟨by omega, rfl⟩

/-- Everything a pop can answer (10_state.md R27, R28). -/
theorem State.pop?_cases :
    (∃ h : 0 < s.sp.val, s.pop? = some (s.stk[s.sp.val - 1]'(by have := s.sp.isLt; omega),
      { s with sp := ⟨s.sp.val - 1, by have := s.sp.isLt; omega⟩ })) ∨
    (s.sp.val = 0 ∧ s.pop? = none) := by
  unfold State.pop?
  split
  · rename_i h; exact .inl ⟨h, rfl⟩
  · exact .inr ⟨by omega, rfl⟩

/-- Everything a key operand can be (46_input.md R248). -/
theorem keyIndex?_cases (b : Byte) :
    (∃ k : Nibble, k.toNat = b.toNat ∧ keyIndex? b = some k) ∨ (15 < b.toNat ∧ keyIndex? b = none) := by
  unfold keyIndex?
  split
  · rename_i h; exact .inl ⟨_, by simpa [BitVec.toNat_ofNat] using Nat.mod_eq_of_lt h, rfl⟩
  · exact .inr ⟨by omega, rfl⟩

@[simp] theorem addMod_toNat (a b : Byte) : (addMod a b).toNat = (a.toNat + b.toNat) % 256 := by
  simp [addMod, BitVec.toNat_ofNat]

theorem subMod_toNat (a b : Byte) :
    (subMod a b).toNat = if b.toNat ≤ a.toNat then a.toNat - b.toNat else a.toNat + 256 - b.toNat := by
  have := a.isLt; have := b.isLt
  simp only [subMod, BitVec.toNat_ofNat]
  split <;> omega

@[simp] theorem digitAddress_toNat (b : Byte) : (digitAddress b).toNat = 5 * b.toNat := by
  have := b.isLt
  simp only [digitAddress, fontStride, BitVec.toNat_ofNat]
  omega

end Sys2Proof.Machine
end

