-- ==== Sys2Proof/Laws/Ops.lean ====
section
/-! SUPPORT. Everything the shared operations can answer: the fetch, the step cycle, the accesses through I, the frame
buffer's pixels, the fault entry, a load. -/

namespace Sys2Proof.Machine

/-! ### Fetch and cycle -/

/-- Everything a fetch can answer (40_fetch_dispatch.md R121, R122). -/
theorem State.fetch_cases (s : State) :
    (s.pc.toNat < pcFetchLimit ∧
      s.fetch = some (wordOfBytes (s.mem.lookup s.pc.toNat) (s.mem.lookup (s.pc.toNat + 1)))) ∨
    (pcFetchLimit ≤ s.pc.toNat ∧ s.fetch = none) := by
  unfold State.fetch
  split
  · rename_i h
    have h' : s.pc.toNat < 4094 := h
    rw [Memory.read?_eq_some (a := s.pc.toNat) (by simp only [memSize]; omega),
      Memory.read?_eq_some (a := s.pc.toNat + 1) (by simp only [memSize]; omega)]
    exact .inl ⟨h, rfl⟩
  · exact .inr ⟨by omega, rfl⟩

/-- Everything a step can do, in the order of its checks (60_exceptions.md R305). -/
theorem step_cases (s : State) :
    (s.halt = true ∧ step s = .next s) ∨
    (s.halt = false ∧ s.fetch = none ∧ step s = .next (s.latch .outOfBounds 0x0000#16)) ∨
    (∃ op e, s.halt = false ∧ s.fetch = some op ∧ decode op = .error e ∧
      step s = .next (s.latch .invalidInstruction op)) ∨
    (∃ op i, s.halt = false ∧ s.fetch = some op ∧ decode op = .ok i ∧ step s = exec i s) := by
  unfold step cycle
  cases hh : s.halt
  · cases hf : s.fetch with
    | none => exact .inr (.inl ⟨rfl, rfl, rfl⟩)
    | some op =>
      cases hd : decode op with
      | error e => exact .inr (.inr (.inl ⟨op, e, rfl, rfl, hd, by simp [hd, raise]⟩))
      | ok i => exact .inr (.inr (.inr ⟨op, i, rfl, rfl, hd, by simp [hd]⟩))
  · exact .inl ⟨rfl, rfl⟩

/-- The step of a machine that is not halted is the effect of the instruction it fetches. -/
theorem step_of_decode {s : State} {op : Word} {i : Instr} (hh : s.halt = false) (hf : s.fetch = some op)
    (hd : decode op = .ok i) : step s = exec i s := by
  simp [step, cycle, hh, hf, hd]

@[simp] theorem raise_eq (k : ErrorKind) (op : Word) (s : State) : raise k op s = .next (s.latch k op) := rfl

/-! ### Memory through I -/

/-- Everything a range read through I can answer (20_memory.md R70, R71). -/
theorem State.bytesAtI?_cases (s : State) (n : Nat) :
    ((n = 0 ∨ s.i.toNat + n ≤ memSize) ∧
      s.bytesAtI? n = some ((List.range n).map fun k => s.mem.lookup (s.i.toNat + k))) ∨
    (0 < n ∧ memSize < s.i.toNat + n ∧ s.bytesAtI? n = none) :=
  Memory.readBytes?_cases s.mem s.i.toNat n

/-- Everything a range store through I can answer, for a list that is not empty (20_memory.md R70). -/
theorem State.storeAtI?_cases (s : State) {bs : List Byte} (hb : bs ≠ []) :
    (∃ m, s.i.toNat + bs.length ≤ memSize ∧ s.mem.writeBytes? s.i.toNat bs = some m ∧
      s.storeAtI? bs = some (s.setMem m)) ∨
    (memSize < s.i.toNat + bs.length ∧ s.storeAtI? bs = none) := by
  have key := Memory.writeBytes?_isSome s.mem s.i.toNat bs
  unfold State.storeAtI?
  cases h : s.mem.writeBytes? s.i.toNat bs with
  | none =>
    refine .inr ⟨?_, rfl⟩
    by_contra hc
    simp [h, hb] at key
    omega
  | some m =>
    refine .inl ⟨m, ?_, rfl, rfl⟩
    simpa [h, hb] using key

/-! ### Pixels -/

/-- The mask of a column has that column's bit and no other. -/
theorem getMsbD_columnMask (c c' : Nat) :
    (BitVec.twoPow 64 (63 - c % 64)).getMsbD (c' % 64) = decide (c' % 64 = c % 64) := by
  have hc : c % 64 < 64 := Nat.mod_lt _ (by decide)
  have hc' : c' % 64 < 64 := Nat.mod_lt _ (by decide)
  rw [BitVec.getMsbD_eq_getLsbD, BitVec.getLsbD_twoPow]
  by_cases h : c' % 64 = c % 64
  · have h1 : 63 - c % 64 < 64 := by omega
    simp [h, hc, h1]
  · have h1 : 63 - c % 64 ≠ 64 - 1 - c' % 64 := by omega
    simp only [h, h1, decide_false, Bool.and_false]

/-- A flip changes exactly the pixel it addresses (44_display.md R214, coordinates taken modulo 64 and 32 as in R213). -/
theorem FrameBuffer.pixel_flip (fb : FrameBuffer) (r c r' c' : Nat) :
    (fb.flip r c).pixel r' c' = if r' % 32 = r % 32 ∧ c' % 64 = c % 64 then !fb.pixel r' c' else fb.pixel r' c' := by
  have key := getMsbD_columnMask c c'
  unfold FrameBuffer.pixel FrameBuffer.flip
  by_cases hr : r' % 32 = r % 32
  · by_cases hc : c' % 64 = c % 64
    · rw [hc] at key
      simp [hr, hc, key]
    · simp [hr, hc, key]
  · have hr2 : r % 32 ≠ r' % 32 := Ne.symm hr
    simp [hr, hr2]

@[simp] theorem FrameBuffer.pixel_clear (r c : Nat) : FrameBuffer.clear.pixel r c = false := by
  simp [FrameBuffer.pixel, FrameBuffer.clear]

/-- The pixel read wraps in both directions (44_display.md R213). -/
theorem FrameBuffer.pixel_wrap (fb : FrameBuffer) (r c : Nat) : fb.pixel (r % 32) (c % 64) = fb.pixel r c := by
  simp [FrameBuffer.pixel]

/-! ### Load -/

/-- Everything a load can answer (47_host_interface.md R270, R271). -/
theorem load?_cases (rom : List Byte) (s : State) :
    (∃ m, rom.length ≤ romMax ∧ s.mem.writeBytes? Config.progBase rom = some m ∧
      load? rom s = some (s.setMem m).disarm) ∨
    (romMax < rom.length ∧ load? rom s = none) := by
  unfold load?
  split
  · rename_i h
    have h' : rom.length ≤ 3584 := h
    have key := (Memory.writeBytes?_isSome s.mem Config.progBase rom).mpr
      (.inr (by simp only [Config.progBase, memSize]; omega))
    obtain ⟨m, hm⟩ := Option.isSome_iff_exists.mp key
    exact .inl ⟨m, h, hm, by simp [hm]⟩
  · exact .inr ⟨by omega, rfl⟩

/-- Reset memory, with no cell listed, is canonical. -/
theorem reset_mem_wf : State.reset.mem.wf := ⟨List.Pairwise.nil, by simp [State.reset]⟩

end Sys2Proof.Machine
end

