-- ==== Sys2Proof/Laws/Display.lean ====
section
/-! SUPPORT. Everything the sprite compositor can do: which pixels a row and a sprite flip, and when they collide
(44_display.md R212 to R216). -/

namespace Sys2Proof.Machine

/-- The first `n` bits of the sprite byte `b`, drawn from column `x`, hit column `c`. -/
def rowHits (x : Nat) (b : Byte) (n c : Nat) : Bool :=
  (List.range n).any fun j => b.getLsbD (7 - j) && decide (c % 64 = (x + j) % 64)

/-- The sprite rows `bs`, drawn from row `y` and column `x`, hit the pixel at row `r`, column `c`. -/
def spriteHits (y x r c : Nat) : List Byte → Bool
  | [] => false
  | b :: bs => (decide (r % 32 = y % 32) && rowHits x b 8 c) || spriteHits (y + 1) x r c bs

theorem rowHits_iff (x : Nat) (b : Byte) (n c : Nat) :
    rowHits x b n c = true ↔ ∃ j, j < n ∧ b.getLsbD (7 - j) = true ∧ c % 64 = (x + j) % 64 := by
  simp [rowHits, List.any_eq_true]

theorem spriteHits_iff (y x r c : Nat) (bs : List Byte) :
    spriteHits y x r c bs = true ↔
      ∃ k j b, bs[k]? = some b ∧ j < 8 ∧ b.getLsbD (7 - j) = true ∧ r % 32 = (y + k) % 32 ∧ c % 64 = (x + j) % 64 := by
  induction bs generalizing y with
  | nil => simp [spriteHits]
  | cons b bs ih =>
    simp only [spriteHits, Bool.or_eq_true, Bool.and_eq_true, decide_eq_true_eq, rowHits_iff, ih]
    constructor
    · rintro (⟨hr, j, hj, hb, hc⟩ | ⟨k, j, b', hk, hj, hb, hr, hc⟩)
      · exact ⟨0, j, b, rfl, hj, hb, by simpa using hr, hc⟩
      · exact ⟨k + 1, j, b', by simpa using hk, hj, hb, by rw [hr]; congr 1; omega, hc⟩
    · rintro ⟨k, j, b', hk, hj, hb, hr, hc⟩
      cases k with
      | zero => obtain rfl : b = b' := by simpa using hk
                exact .inl ⟨by simpa using hr, j, hj, hb, hc⟩
      | succ k => exact .inr ⟨k, j, b', by simpa using hk, hj, hb, by rw [hr]; congr 1; omega, hc⟩

/-- Two columns of one sprite row never fall on the same pixel: 8 < 64. -/
theorem rowHits_lt_false {x : Nat} {b : Byte} {n c : Nat} (hn : n < 64) (hc : c % 64 = (x + n) % 64) :
    rowHits x b n c = false := by
  rw [← Bool.not_eq_true, rowHits_iff]
  rintro ⟨j, hj, -, hc'⟩
  omega

theorem rowHits_succ (x : Nat) (b : Byte) (n c : Nat) :
    rowHits x b (n + 1) c = (rowHits x b n c || (b.getLsbD (7 - n) && decide (c % 64 = (x + n) % 64))) := by
  simp [rowHits, List.range_succ]

theorem drawBit_clear {r x j : Nat} {b : Byte} {acc : FrameBuffer × Bool} (h : b.getLsbD (7 - j) = false) :
    drawBit r x b acc j = acc := if_neg (by simp [h])

theorem drawBit_set {r x j : Nat} {b : Byte} {acc : FrameBuffer × Bool} (h : b.getLsbD (7 - j) = true) :
    drawBit r x b acc j = (acc.1.flip r (x + j), acc.2 || acc.1.pixel r (x + j)) := if_pos h

theorem drawBits_pixel (r x : Nat) (b : Byte) (acc : FrameBuffer × Bool) (r' c' : Nat) {n : Nat} (hn : n ≤ 64) :
    ((List.range n).foldl (drawBit r x b) acc).1.pixel r' c' =
      (acc.1.pixel r' c' ^^ (decide (r' % 32 = r % 32) && rowHits x b n c')) := by
  induction n with
  | zero => simp [rowHits]
  | succ n ih =>
    have ih := ih (by omega)
    rw [List.range_succ, List.foldl_append, List.foldl_cons, List.foldl_nil, rowHits_succ]
    cases hb : b.getLsbD (7 - n) with
    | false => rw [drawBit_clear hb]; simpa using ih
    | true =>
      rw [drawBit_set hb]
      dsimp only
      rw [FrameBuffer.pixel_flip]
      by_cases hr : r' % 32 = r % 32
      · by_cases hc : c' % 64 = (x + n) % 64
        · rw [if_pos ⟨hr, hc⟩, ih, rowHits_lt_false (by omega) hc]
          simp [hr, hc]
        · rw [if_neg (fun h => hc h.2), ih]
          simp [hc]
      · rw [if_neg (fun h => hr h.1), ih]
        simp [hr]

theorem drawBits_collides (r x : Nat) (b : Byte) (acc : FrameBuffer × Bool) {n : Nat} (hn : n ≤ 64) :
    ((List.range n).foldl (drawBit r x b) acc).2 = true ↔
      acc.2 = true ∨ ∃ j, j < n ∧ b.getLsbD (7 - j) = true ∧ acc.1.pixel r (x + j) = true := by
  induction n with
  | zero => simp
  | succ n ih =>
    have ih := ih (by omega)
    have hp := drawBits_pixel r x b acc r (x + n) (n := n) (by omega)
    rw [rowHits_lt_false (by omega) rfl] at hp
    rw [List.range_succ, List.foldl_append, List.foldl_cons, List.foldl_nil]
    cases hb : b.getLsbD (7 - n) with
    | false =>
      rw [drawBit_clear hb, ih]
      constructor
      · rintro (h | ⟨j, hj, h⟩)
        · exact .inl h
        · exact .inr ⟨j, by omega, h⟩
      · rintro (h | ⟨j, hj, h1, h2⟩)
        · exact .inl h
        · refine .inr ⟨j, ?_, h1, h2⟩
          rcases Nat.lt_succ_iff_lt_or_eq.mp hj with h | h
          · exact h
          · subst h; simp [hb] at h1
    | true =>
      rw [drawBit_set hb]
      dsimp only
      rw [Bool.or_eq_true, ih, hp]
      simp only [Bool.and_false, Bool.xor_false]
      constructor
      · rintro ((h | ⟨j, hj, h⟩) | h)
        · exact .inl h
        · exact .inr ⟨j, by omega, h⟩
        · exact .inr ⟨n, by omega, hb, h⟩
      · rintro (h | ⟨j, hj, h1, h2⟩)
        · exact .inl (.inl h)
        · rcases Nat.lt_succ_iff_lt_or_eq.mp hj with h | h
          · exact .inl (.inr ⟨j, h, h1, h2⟩)
          · subst h; exact .inr h2

/-- A sprite row flips exactly the pixels its 1 bits hit (44_display.md R214). -/
theorem drawRow_pixel (r x : Nat) (b : Byte) (acc : FrameBuffer × Bool) (r' c' : Nat) :
    (drawRow r x b acc).1.pixel r' c' =
      (acc.1.pixel r' c' ^^ (decide (r' % 32 = r % 32) && rowHits x b 8 c')) :=
  drawBits_pixel r x b acc r' c' (by decide)

/-- A sprite row collides exactly when one of the pixels its 1 bits hit was lit (44_display.md R214, R215). -/
theorem drawRow_collides (r x : Nat) (b : Byte) (acc : FrameBuffer × Bool) :
    (drawRow r x b acc).2 = true ↔ acc.2 = true ∨ ∃ c, rowHits x b 8 c = true ∧ acc.1.pixel r c = true := by
  refine (drawBits_collides r x b acc (n := 8) (by decide)).trans (or_congr_right ⟨?_, ?_⟩)
  · rintro ⟨j, hj, hb, hp⟩
    exact ⟨x + j, (rowHits_iff x b 8 _).mpr ⟨j, hj, hb, rfl⟩, hp⟩
  · rintro ⟨c, hc, hp⟩
    obtain ⟨j, hj, hb, hcj⟩ := (rowHits_iff x b 8 c).mp hc
    refine ⟨j, hj, hb, ?_⟩
    rw [← FrameBuffer.pixel_wrap, ← hcj, FrameBuffer.pixel_wrap]
    exact hp

/-- Rows below `y` of one sprite never come back to row `y`: at most 15 < 32 rows. -/
theorem spriteHits_below_false {y x r c m : Nat} {bs : List Byte} (h0 : y < m) (h : m + bs.length ≤ y + 32)
    (hr : r % 32 = y % 32) : spriteHits m x r c bs = false := by
  rw [← Bool.not_eq_true, spriteHits_iff]
  rintro ⟨k, j, b, hk, -, -, hr', -⟩
  obtain ⟨hk', -⟩ := List.getElem?_eq_some_iff.mp hk
  omega

/-- A sprite flips exactly the pixels its 1 bits hit. -/
theorem drawRows_pixel (y x : Nat) (bs : List Byte) (acc : FrameBuffer × Bool) (r c : Nat) (h : bs.length ≤ 32) :
    (drawRows y x bs acc).1.pixel r c = (acc.1.pixel r c ^^ spriteHits y x r c bs) := by
  induction bs generalizing y acc with
  | nil => simp [drawRows, spriteHits]
  | cons b bs ih =>
    have hl : bs.length + 1 ≤ 32 := by simpa using h
    rw [drawRows, ih _ _ (by omega), drawRow_pixel, spriteHits]
    by_cases hr : r % 32 = y % 32
    · rw [spriteHits_below_false (Nat.lt_succ_self y) (by omega) hr]
      simp
    · simp [hr]

/-- A sprite collides exactly when one of the pixels its 1 bits hit was lit. -/
theorem drawRows_collides (y x : Nat) (bs : List Byte) (acc : FrameBuffer × Bool) (h : bs.length ≤ 32) :
    (drawRows y x bs acc).2 = true ↔
      acc.2 = true ∨ ∃ r c, spriteHits y x r c bs = true ∧ acc.1.pixel r c = true := by
  induction bs generalizing y acc with
  | nil => simp [drawRows, spriteHits]
  | cons b bs ih =>
    have hl : bs.length + 1 ≤ 32 := by simpa using h
    rw [drawRows, ih _ _ (by omega), drawRow_collides, or_assoc]
    refine or_congr_right ⟨?_, ?_⟩
    · rintro (⟨c, hc, hp⟩ | ⟨r, c, hc, hp⟩)
      · exact ⟨y, c, by simp [spriteHits, hc], hp⟩
      · refine ⟨r, c, by simp [spriteHits, hc], ?_⟩
        have hr : r % 32 ≠ y % 32 := fun hr => by
          rw [spriteHits_below_false (Nat.lt_succ_self y) (by omega) hr] at hc
          exact Bool.noConfusion hc
        simpa [drawRow_pixel, hr] using hp
    · rintro ⟨r, c, hc, hp⟩
      rw [spriteHits, Bool.or_eq_true, Bool.and_eq_true, decide_eq_true_eq] at hc
      rcases hc with ⟨hr, hc⟩ | hc
      · refine .inl ⟨c, hc, ?_⟩
        rw [← FrameBuffer.pixel_wrap, ← hr, FrameBuffer.pixel_wrap]
        exact hp
      · refine .inr ⟨r, c, hc, ?_⟩
        have hr : r % 32 ≠ y % 32 := fun hr => by
          rw [spriteHits_below_false (Nat.lt_succ_self y) (by omega) hr] at hc
          exact Bool.noConfusion hc
        simpa [drawRow_pixel, hr] using hp

end Sys2Proof.Machine
end

