-- ==== Sys2Proof/Laws/Encoding.lean ====
section
/-! SUPPORT. The fields of a word laid out by a format of 30_encoding.md R93. -/

namespace Sys2Proof

variable (f x y n : Nibble) (nn : Byte) (nnn : Addr12)

@[simp] theorem fieldFamily_formatNNN : fieldFamily (formatNNN f nnn) = f :=
  BitVec.extractLsb'_append_eq_left

@[simp] theorem fieldNNN_formatNNN : fieldNNN (formatNNN f nnn) = nnn :=
  BitVec.extractLsb'_append_eq_right

theorem fieldFamily_append (lo : Byte) : fieldFamily ((f ++ x) ++ lo) = f :=
  (BitVec.extractLsb'_append_eq_of_le (xhi := f ++ x) (xlo := lo) (start := 12) (len := 4) (by decide)).trans
    BitVec.extractLsb'_append_eq_left

theorem fieldX_append (lo : Byte) : fieldX ((f ++ x) ++ lo) = x :=
  (BitVec.extractLsb'_append_eq_of_le (xhi := f ++ x) (xlo := lo) (start := 8) (len := 4) (by decide)).trans
    BitVec.extractLsb'_append_eq_right

theorem fieldNN_append (lo : Byte) : fieldNN ((f ++ x) ++ lo) = lo :=
  BitVec.extractLsb'_append_eq_right

@[simp] theorem fieldFamily_formatXNN : fieldFamily (formatXNN f x nn) = f := fieldFamily_append f x nn
@[simp] theorem fieldX_formatXNN : fieldX (formatXNN f x nn) = x := fieldX_append f x nn
@[simp] theorem fieldNN_formatXNN : fieldNN (formatXNN f x nn) = nn := fieldNN_append f x nn
@[simp] theorem fieldFamily_formatXYN : fieldFamily (formatXYN f x y n) = f := fieldFamily_append f x (y ++ n)
@[simp] theorem fieldX_formatXYN : fieldX (formatXYN f x y n) = x := fieldX_append f x (y ++ n)

@[simp] theorem fieldY_formatXYN : fieldY (formatXYN f x y n) = y :=
  (BitVec.extractLsb'_append_eq_of_add_le (xhi := f ++ x) (xlo := y ++ n) (start := 4) (len := 4) (by decide)).trans
    BitVec.extractLsb'_append_eq_left

@[simp] theorem fieldN_formatXYN : fieldN (formatXYN f x y n) = n :=
  (BitVec.extractLsb'_append_eq_of_add_le (xhi := f ++ x) (xlo := y ++ n) (start := 0) (len := 4) (by decide)).trans
    BitVec.extractLsb'_append_eq_right

/-! ### A word is laid out from its own fields -/

theorem extractLsb'_whole (op : Word) : op.extractLsb' 0 16 = op := by simp

theorem formatNNN_fields (op : Word) : formatNNN (fieldFamily op) (fieldNNN op) = op :=
  (BitVec.extractLsb'_append_extractLsb'_eq_extractLsb' (x := op) (start₂ := 12) (len₂ := 4) (start₁ := 0)
    (len₁ := 12) (by decide)).trans (extractLsb'_whole op)

theorem formatXNN_fields (op : Word) : formatXNN (fieldFamily op) (fieldX op) (fieldNN op) = op := by
  have h1 := BitVec.extractLsb'_append_extractLsb'_eq_extractLsb' (x := op) (start₂ := 12) (len₂ := 4) (start₁ := 8)
    (len₁ := 4) (by decide)
  have h2 := BitVec.extractLsb'_append_extractLsb'_eq_extractLsb' (x := op) (start₂ := 8) (len₂ := 8) (start₁ := 0)
    (len₁ := 8) (by decide)
  have h3 : formatXNN (fieldFamily op) (fieldX op) (fieldNN op) = op.extractLsb' 8 8 ++ op.extractLsb' 0 8 :=
    congrArg (fun h : BitVec 8 => (h ++ op.extractLsb' 0 8 : BitVec 16)) h1
  exact h3.trans (h2.trans (extractLsb'_whole op))

theorem fieldNN_eq (op : Word) : fieldNN op = fieldY op ++ fieldN op :=
  (BitVec.extractLsb'_append_extractLsb'_eq_extractLsb' (x := op) (start₂ := 4) (len₂ := 4) (start₁ := 0) (len₁ := 4)
    (by decide)).symm

theorem formatXYN_fields (op : Word) : formatXYN (fieldFamily op) (fieldX op) (fieldY op) (fieldN op) = op := by
  have h := formatXNN_fields op
  rwa [fieldNN_eq] at h

end Sys2Proof
end

