-- ==== Sys2Proof/Laws/PerInstr.lean ====
section
/-! SUPPORT. The per-instruction family `RowMatch`: the encoder's word of an instruction selects that instruction's row of the
opcode map (30_encoding.md R100). -/

namespace Sys2Proof.Laws

theorem nibble_and_ones (f : Nibble) : f &&& 0xF#4 = f := BitVec.and_allOnes (w := 4)

theorem byte_and_ones (b : Byte) : b &&& 0xFF#8 = b := BitVec.and_allOnes (w := 8)

theorem selects_of_and_eq {op mask pattern : Word} (h : op &&& mask = pattern) :
    (⟨mask, pattern⟩ : Row).selects op = true := beq_iff_eq.mpr h

theorem selects_formatNNN (f : Nibble) (nnn : Addr12) : (⟨0xF000, f ++ 0#12⟩ : Row).selects (formatNNN f nnn) = true := by
  have h : (f ++ nnn) &&& (0xF#4 ++ 0#12) = f ++ 0#12 := by
    rw [BitVec.and_append, nibble_and_ones, BitVec.and_zero]
  exact selects_of_and_eq h

theorem selects_formatXNN (f x : Nibble) (nn : Byte) :
    (⟨0xF000, (f ++ 0#4) ++ 0#8⟩ : Row).selects (formatXNN f x nn) = true := by
  have h : ((f ++ x) ++ nn) &&& ((0xF#4 ++ 0#4) ++ 0#8) = (f ++ 0#4) ++ 0#8 := by
    rw [BitVec.and_append, BitVec.and_append, nibble_and_ones, BitVec.and_zero, BitVec.and_zero]
  exact selects_of_and_eq h

theorem selects_formatXKK (f x : Nibble) (kk : Byte) :
    (⟨0xF0FF, (f ++ 0#4) ++ kk⟩ : Row).selects (formatXNN f x kk) = true := by
  have h : ((f ++ x) ++ kk) &&& ((0xF#4 ++ 0#4) ++ 0xFF#8) = (f ++ 0#4) ++ kk := by
    rw [BitVec.and_append, BitVec.and_append, nibble_and_ones, byte_and_ones, BitVec.and_zero]
  exact selects_of_and_eq h

theorem selects_formatXY (f x y n : Nibble) :
    (⟨0xF00F, (f ++ 0#4) ++ (0#4 ++ n)⟩ : Row).selects (formatXYN f x y n) = true := by
  have h : ((f ++ x) ++ (y ++ n)) &&& ((0xF#4 ++ 0#4) ++ (0#4 ++ 0xF#4)) = (f ++ 0#4) ++ (0#4 ++ n) := by
    rw [BitVec.and_append, BitVec.and_append, BitVec.and_append, nibble_and_ones, nibble_and_ones, BitVec.and_zero,
      BitVec.and_zero]
  exact selects_of_and_eq h

/-- The encoder's word selects the instruction's own row (30_encoding.md R100). -/
def RowMatch.Statement (i : Instr) : Prop := i.row.selects (encode i) = true

theorem RowMatch.cls : RowMatch.Statement .cls := by unfold RowMatch.Statement; decide
theorem RowMatch.ret : RowMatch.Statement .ret := by unfold RowMatch.Statement; decide
theorem RowMatch.jp (nnn : Addr12) : RowMatch.Statement (.jp nnn) := selects_formatNNN 0x1#4 nnn
theorem RowMatch.call (nnn : Addr12) : RowMatch.Statement (.call nnn) := selects_formatNNN 0x2#4 nnn
theorem RowMatch.seImm (x : Nibble) (nn : Byte) : RowMatch.Statement (.seImm x nn) := selects_formatXNN 0x3#4 x nn
theorem RowMatch.sneImm (x : Nibble) (nn : Byte) : RowMatch.Statement (.sneImm x nn) := selects_formatXNN 0x4#4 x nn
theorem RowMatch.seReg (x y : Nibble) : RowMatch.Statement (.seReg x y) := selects_formatXY 0x5#4 x y 0x0#4
theorem RowMatch.ldImm (x : Nibble) (nn : Byte) : RowMatch.Statement (.ldImm x nn) := selects_formatXNN 0x6#4 x nn
theorem RowMatch.addImm (x : Nibble) (nn : Byte) : RowMatch.Statement (.addImm x nn) := selects_formatXNN 0x7#4 x nn
theorem RowMatch.ldReg (x y : Nibble) : RowMatch.Statement (.ldReg x y) := selects_formatXY 0x8#4 x y 0x0#4
theorem RowMatch.orReg (x y : Nibble) : RowMatch.Statement (.orReg x y) := selects_formatXY 0x8#4 x y 0x1#4
theorem RowMatch.andReg (x y : Nibble) : RowMatch.Statement (.andReg x y) := selects_formatXY 0x8#4 x y 0x2#4
theorem RowMatch.xorReg (x y : Nibble) : RowMatch.Statement (.xorReg x y) := selects_formatXY 0x8#4 x y 0x3#4
theorem RowMatch.addReg (x y : Nibble) : RowMatch.Statement (.addReg x y) := selects_formatXY 0x8#4 x y 0x4#4
theorem RowMatch.subReg (x y : Nibble) : RowMatch.Statement (.subReg x y) := selects_formatXY 0x8#4 x y 0x5#4
theorem RowMatch.shr (x y : Nibble) : RowMatch.Statement (.shr x y) := selects_formatXY 0x8#4 x y 0x6#4
theorem RowMatch.subnReg (x y : Nibble) : RowMatch.Statement (.subnReg x y) := selects_formatXY 0x8#4 x y 0x7#4
theorem RowMatch.shl (x y : Nibble) : RowMatch.Statement (.shl x y) := selects_formatXY 0x8#4 x y 0xE#4
theorem RowMatch.sneReg (x y : Nibble) : RowMatch.Statement (.sneReg x y) := selects_formatXY 0x9#4 x y 0x0#4
theorem RowMatch.ldI (nnn : Addr12) : RowMatch.Statement (.ldI nnn) := selects_formatNNN 0xA#4 nnn
theorem RowMatch.jpV0 (nnn : Addr12) : RowMatch.Statement (.jpV0 nnn) := selects_formatNNN 0xB#4 nnn
theorem RowMatch.rnd (x : Nibble) (nn : Byte) : RowMatch.Statement (.rnd x nn) := selects_formatXNN 0xC#4 x nn
theorem RowMatch.drw (x y n : Nibble) : RowMatch.Statement (.drw x y n) := selects_formatXNN 0xD#4 x (y ++ n)
theorem RowMatch.skp (x : Nibble) : RowMatch.Statement (.skp x) := selects_formatXKK 0xE#4 x 0x9E#8
theorem RowMatch.sknp (x : Nibble) : RowMatch.Statement (.sknp x) := selects_formatXKK 0xE#4 x 0xA1#8
theorem RowMatch.ldVxDt (x : Nibble) : RowMatch.Statement (.ldVxDt x) := selects_formatXKK 0xF#4 x 0x07#8
theorem RowMatch.ldVxK (x : Nibble) : RowMatch.Statement (.ldVxK x) := selects_formatXKK 0xF#4 x 0x0A#8
theorem RowMatch.ldDtVx (x : Nibble) : RowMatch.Statement (.ldDtVx x) := selects_formatXKK 0xF#4 x 0x15#8
theorem RowMatch.ldStVx (x : Nibble) : RowMatch.Statement (.ldStVx x) := selects_formatXKK 0xF#4 x 0x18#8
theorem RowMatch.addI (x : Nibble) : RowMatch.Statement (.addI x) := selects_formatXKK 0xF#4 x 0x1E#8
theorem RowMatch.ldF (x : Nibble) : RowMatch.Statement (.ldF x) := selects_formatXKK 0xF#4 x 0x29#8
theorem RowMatch.ldB (x : Nibble) : RowMatch.Statement (.ldB x) := selects_formatXKK 0xF#4 x 0x33#8
theorem RowMatch.ldMemVx (x : Nibble) : RowMatch.Statement (.ldMemVx x) := selects_formatXKK 0xF#4 x 0x55#8
theorem RowMatch.ldVxMem (x : Nibble) : RowMatch.Statement (.ldVxMem x) := selects_formatXKK 0xF#4 x 0x65#8

end Sys2Proof.Laws
end

