-- ==== Sys2Proof/Laws/Runs.lean ====
section
/-! SUPPORT. Runs of events: runs compose, a trace is the run of its events, an induction over a run, and what fairness of
the ticks gives. -/

namespace Sys2Proof.Machine

@[simp] theorem runEvents_nil (s : State) : runEvents [] s = .next s := rfl

theorem runEvents_cons {e : Event} {s t : State} {r : Response} (h : applyEvent e s = .next (t, r)) (es : List Event) :
    runEvents (e :: es) s = runEvents es t := by rw [runEvents, h]

/-- A list of events split in two runs the one part and then the other. -/
theorem runEvents_append {es : List Event} {s t : State} (h : runEvents es s = .next t) (es' : List Event) :
    runEvents (es ++ es') s = runEvents es' t := by
  induction es generalizing s with
  | nil => obtain rfl : s = t := Host.Outcome.next.inj h
           rfl
  | cons e es ih =>
    rw [runEvents] at h
    rw [List.cons_append, runEvents]
    split at h
    · exact ih h
    · cases h
    · cases h

variable {sched : Nat → Event} {trace : Nat → State}

/-- The state of a run before its `n`-th event is what its first `n` events leave. -/
theorem IsRun.runEvents_range (h : IsRun sched trace) (n : Nat) :
    runEvents ((List.range n).map sched) (trace 0) = .next (trace n) := by
  induction n with
  | zero => rfl
  | succ n ih =>
    obtain ⟨r, hr⟩ := h n
    rw [List.range_succ, List.map_append, runEvents_append ih]
    exact runEvents_cons hr []

/-- The induction over a run: what every event of the run keeps holds all along it. -/
theorem IsRun.induction (h : IsRun sched trace) {P : State → Prop} (h0 : P (trace 0))
    (hstep : ∀ n t r, P (trace n) → applyEvent (sched n) (trace n) = .next (t, r) → P t) (n : Nat) : P (trace n) := by
  induction n with
  | zero => exact h0
  | succ n ih =>
    obtain ⟨r, hr⟩ := h n
    exact hstep n _ r ih hr

/-- A run seen from its `k`-th event on is a run. -/
theorem IsRun.drop (h : IsRun sched trace) (k : Nat) : IsRun (fun n => sched (n + k)) (fun n => trace (n + k)) := by
  intro n
  obtain ⟨r, hr⟩ := h (n + k)
  exact ⟨r, by rw [hr, Nat.add_right_comm]⟩

/-- Fairness does not depend on where a schedule is entered. -/
theorem TickFair.drop (h : TickFair sched) (k : Nat) : TickFair fun n => sched (n + k) := by
  intro n
  obtain ⟨m, hm, ht⟩ := h (n + k)
  exact ⟨m - k, by omega, by simpa only [Nat.sub_add_cancel (show k ≤ m by omega)] using ht⟩

/-- A number that no event of a fair run raises and every tick lowers while it is positive is 0 from some event on. -/
theorem TickFair.reaches_zero (h : TickFair sched) {f : Nat → Nat} (hmono : ∀ n, f (n + 1) ≤ f n)
    (htick : ∀ n, sched n = .tick → f (n + 1) = f n - 1) : ∃ n, ∀ m, n ≤ m → f m = 0 := by
  have hle : ∀ n m, n ≤ m → f m ≤ f n := fun n m hnm => by
    induction hnm with
    | refl => exact Nat.le_refl _
    | step _ ih => exact Nat.le_trans (hmono _) ih
  suffices hs : ∀ k n, f n ≤ k → ∃ n, f n = 0 by
    obtain ⟨n, hn⟩ := hs (f 0) 0 (Nat.le_refl _)
    exact ⟨n, fun m hm => by have := hle n m hm; omega⟩
  intro k
  induction k with
  | zero => exact fun n hn => ⟨n, by omega⟩
  | succ k ih =>
    intro n hn
    obtain ⟨m, hm, ht⟩ := h n
    have h1 := hle n m hm
    have h2 := htick m ht
    exact ih (m + 1) (by omega)

end Sys2Proof.Machine
end

