-- ==== Sys2Proof/Tests/Slice0.lean ====
section
/-! SUPPORT. The model's own tests: the decoding of a word of every instruction, the refusal of ill-formed words, single steps
with results taken from 95_test_vectors.md, and for each statement with hypotheses a state that meets them. -/

namespace Sys2Proof.Tests

open Sys2Proof.Machine

/-! ### Helpers -/

/-- The next state an outcome answers (the reset state where it answers none). -/
def after : Outcome → State
  | .next t => t
  | _ => State.reset

/-- One step from a state with the word `op` at PC. -/
def stepOn (s : State) (op : Nat) : State := after (step (s.withFetchWord 16 op))

/-- Reset with some V registers written. -/
def regs (l : List (Nibble × Byte)) : State := l.foldl (fun s p => s.setV p.1 p.2) State.reset

/-- A state with one byte of memory written. -/
def poke (s : State) (a : Nat) (b : Byte) : State := s.setMem (s.mem.store a b)

/-- The fault record as (HALT, FAULT_KIND, FAULT_PC, FAULT_OP). -/
def record (s : State) : Bool × Nat × Nat × Nat := (s.halt, s.faultKind.toNat, s.faultPc.toNat, s.faultOp.toNat)

/-! ### Well-formed words: an ill-formed word of each illegal family (30_encoding.md R104) -/

theorem test_wf_refuses_family_0 : wordWf 0x0000#16 = false ∧ wordWf 0x00E1#16 = false ∧ wordWf 0x0123#16 = false := by decide
theorem test_wf_refuses_family_5 : wordWf 0x5121#16 = false := by decide
theorem test_wf_refuses_family_8 : wordWf 0x8128#16 = false ∧ wordWf 0x812F#16 = false := by decide
theorem test_wf_refuses_family_9 : wordWf 0x9001#16 = false := by decide
theorem test_wf_refuses_family_E : wordWf 0xE19F#16 = false := by decide
theorem test_wf_refuses_family_F : wordWf 0xF1FF#16 = false := by decide
theorem test_wf_accepts : wordWf 0x00E0#16 = true ∧ wordWf 0x8126#16 = true ∧ wordWf 0xFF65#16 = true := by decide

/-! ### Decoding: one word of each row, written out from the pattern of 30_encoding.md R100 -/

theorem test_decode_cls : decode 0x00E0#16 = .ok .cls := by decide
theorem test_decode_ret : decode 0x00EE#16 = .ok .ret := by decide
theorem test_decode_jp : decode 0x1ABC#16 = .ok (.jp 0xABC#12) := by decide
theorem test_decode_call : decode 0x2ABC#16 = .ok (.call 0xABC#12) := by decide
theorem test_decode_seImm : decode 0x332A#16 = .ok (.seImm 0x3#4 0x2A#8) := by decide
theorem test_decode_sneImm : decode 0x432A#16 = .ok (.sneImm 0x3#4 0x2A#8) := by decide
theorem test_decode_seReg : decode 0x5120#16 = .ok (.seReg 0x1#4 0x2#4) := by decide
theorem test_decode_ldImm : decode 0x6103#16 = .ok (.ldImm 0x1#4 0x03#8) := by decide
theorem test_decode_addImm : decode 0x7003#16 = .ok (.addImm 0x0#4 0x03#8) := by decide
theorem test_decode_ldReg : decode 0x8120#16 = .ok (.ldReg 0x1#4 0x2#4) := by decide
theorem test_decode_orReg : decode 0x8121#16 = .ok (.orReg 0x1#4 0x2#4) := by decide
theorem test_decode_andReg : decode 0x8122#16 = .ok (.andReg 0x1#4 0x2#4) := by decide
theorem test_decode_xorReg : decode 0x8123#16 = .ok (.xorReg 0x1#4 0x2#4) := by decide
theorem test_decode_addReg : decode 0x8014#16 = .ok (.addReg 0x0#4 0x1#4) := by decide
theorem test_decode_subReg : decode 0x8125#16 = .ok (.subReg 0x1#4 0x2#4) := by decide
theorem test_decode_shr : decode 0x8126#16 = .ok (.shr 0x1#4 0x2#4) := by decide
theorem test_decode_subnReg : decode 0x8127#16 = .ok (.subnReg 0x1#4 0x2#4) := by decide
theorem test_decode_shl : decode 0x812E#16 = .ok (.shl 0x1#4 0x2#4) := by decide
theorem test_decode_sneReg : decode 0x9120#16 = .ok (.sneReg 0x1#4 0x2#4) := by decide
theorem test_decode_ldI : decode 0xA300#16 = .ok (.ldI 0x300#12) := by decide
theorem test_decode_jpV0 : decode 0xB300#16 = .ok (.jpV0 0x300#12) := by decide
theorem test_decode_rnd : decode 0xC10F#16 = .ok (.rnd 0x1#4 0x0F#8) := by decide
theorem test_decode_drw : decode 0xD125#16 = .ok (.drw 0x1#4 0x2#4 0x5#4) := by decide
theorem test_decode_skp : decode 0xE19E#16 = .ok (.skp 0x1#4) := by decide
theorem test_decode_sknp : decode 0xE1A1#16 = .ok (.sknp 0x1#4) := by decide
theorem test_decode_ldVxDt : decode 0xF207#16 = .ok (.ldVxDt 0x2#4) := by decide
theorem test_decode_ldVxK : decode 0xF10A#16 = .ok (.ldVxK 0x1#4) := by decide
theorem test_decode_ldDtVx : decode 0xF015#16 = .ok (.ldDtVx 0x0#4) := by decide
theorem test_decode_ldStVx : decode 0xF318#16 = .ok (.ldStVx 0x3#4) := by decide
theorem test_decode_addI : decode 0xF21E#16 = .ok (.addI 0x2#4) := by decide
theorem test_decode_ldF : decode 0xF029#16 = .ok (.ldF 0x0#4) := by decide
theorem test_decode_ldB : decode 0xF233#16 = .ok (.ldB 0x2#4) := by decide
theorem test_decode_ldMemVx : decode 0xF255#16 = .ok (.ldMemVx 0x2#4) := by decide
theorem test_decode_ldVxMem : decode 0xF265#16 = .ok (.ldVxMem 0x2#4) := by decide

/-- A table word is laid out in memory's byte order and decoded from its bytes. -/
theorem test_decodeTableWord : decodeTableWord 16 0x8014 = some (.addReg 0x0#4 0x1#4) := by decide
theorem test_decodeTableWord_illegal : decodeTableWord 16 0x0000 = none := by decide

/-! ### Single steps; expected results from 95_test_vectors.md, the vector named before each -/

-- T1
theorem test_step_illegal : record (after (step State.reset)) = (true, 1, 0x200, 0x0000) := by decide
-- T101
theorem test_cls : (stepOn (State.reset.setFb (FrameBuffer.clear.flip 3 5)) 0x00E0).fb.pixel 3 5 = false := by decide
-- T25
theorem test_ret_empty : record (stepOn State.reset 0x00EE) = (true, 3, 0x200, 0x00EE) := by decide
-- X5, second step
theorem test_ret : (stepOn (stepOn State.reset 0x2204) 0x00EE).pc = 0x0202#16 := by decide
-- T20
theorem test_jp : (stepOn State.reset 0x1ABC).pc = 0x0ABC#16 := by decide
-- T22
theorem test_call : (stepOn State.reset 0x2ABC).stk[0] = 0x0202#16 ∧ (stepOn State.reset 0x2ABC).sp = 1 := by decide
-- T23
theorem test_call_full : record (stepOn { State.reset with sp := 16 } 0x2ABC) = (true, 2, 0x200, 0x2ABC) := by decide
-- T28
theorem test_jpV0 : (stepOn (regs [(0#4, 0xFF#8)]) 0xBFFF).pc = 0x10FE#16 := by decide
-- T30
theorem test_seImm : (stepOn (regs [(3#4, 0x2A#8)]) 0x332A).pc = 0x0204#16 := by decide
-- T32
theorem test_sneImm : (stepOn (regs [(3#4, 0x2A#8)]) 0x432A).pc = 0x0202#16 := by decide
-- T35
theorem test_seReg : (stepOn (regs [(1#4, 7#8), (2#4, 8#8)]) 0x5120).pc = 0x0202#16 := by decide
-- T37
theorem test_sneReg : (stepOn (regs [(1#4, 7#8), (2#4, 8#8)]) 0x9120).pc = 0x0204#16 := by decide
-- T41
theorem test_ldImm : (stepOn State.reset 0x6F42).getV 0xF#4 = 0x42#8 := by decide
-- T43
theorem test_addImm_no_flag : (stepOn (regs [(0#4, 0xFF#8), (0xF#4, 0x55#8)]) 0x7001).getV 0x0#4 = 0x00#8 ∧
    (stepOn (regs [(0#4, 0xFF#8), (0xF#4, 0x55#8)]) 0x7001).getV 0xF#4 = 0x55#8 := by decide
-- T44
theorem test_ldReg : (stepOn (regs [(2#4, 0x7C#8)]) 0x8120).getV 0x1#4 = 0x7C#8 := by decide
-- T45
theorem test_orReg : (stepOn (regs [(1#4, 0xF0#8), (2#4, 0x3C#8)]) 0x8121).getV 0x1#4 = 0xFC#8 := by decide
-- T46
theorem test_andReg : (stepOn (regs [(1#4, 0xF0#8), (2#4, 0x3C#8)]) 0x8122).getV 0x1#4 = 0x30#8 := by decide
-- T47
theorem test_xorReg : (stepOn (regs [(1#4, 0xF0#8), (2#4, 0x3C#8)]) 0x8123).getV 0x1#4 = 0xCC#8 := by decide
-- T53
theorem test_addReg_x_is_vf : (stepOn (regs [(0xF#4, 0xF0#8), (1#4, 0x20#8)]) 0x8F14).getV 0xF#4 = 0x01#8 := by decide
-- T54
theorem test_addReg_y_is_vf : (stepOn (regs [(0#4, 0x10#8), (0xF#4, 0x05#8)]) 0x80F4).getV 0x0#4 = 0x15#8 := by decide
-- T57
theorem test_subReg_equal : (stepOn (regs [(1#4, 0x44#8), (2#4, 0x44#8), (0xF#4, 1#8)]) 0x8125).getV 0xF#4 = 0x00#8 := by decide
-- T56
theorem test_subReg_wraps : (stepOn (regs [(1#4, 0x03#8), (2#4, 0x0A#8)]) 0x8125).getV 0x1#4 = 0xF9#8 := by decide
-- T58
theorem test_shr : (stepOn (regs [(1#4, 0x05#8), (2#4, 0xEE#8)]) 0x8126).getV 0x1#4 = 0x02#8 ∧
    (stepOn (regs [(1#4, 0x05#8), (2#4, 0xEE#8)]) 0x8126).getV 0xF#4 = 0x01#8 := by decide
-- T61
theorem test_subnReg : (stepOn (regs [(1#4, 0x03#8), (2#4, 0x0A#8)]) 0x8127).getV 0x1#4 = 0x07#8 := by decide
-- T64
theorem test_shl : (stepOn (regs [(1#4, 0x81#8)]) 0x810E).getV 0x1#4 = 0x02#8 ∧
    (stepOn (regs [(1#4, 0x81#8)]) 0x810E).getV 0xF#4 = 0x01#8 := by decide
-- T70
theorem test_ldI : (stepOn State.reset 0xAFFF).i = 0x0FFF#16 := by decide
-- T67, the draw being 0xB7
theorem test_rnd : (rndWith 0xB7#8 0x1#4 0x0F#8 State.reset).getV 0x1#4 = 0x07#8 := by decide
-- X3: the pixel (31, 3) is lit
theorem test_drw_wraps : (stepOn (poke (poke ((regs [(0#4, 60#8), (1#4, 31#8)]).setI 0x300#16) 0x300 0xFF#8) 0x301 0xFF#8)
    0xD012).fb.pixel 31 3 = true := by decide
-- T95
theorem test_drw_collides : (stepOn (poke ((State.reset.setFb (FrameBuffer.clear.flip 0 0)).setI 0x300#16) 0x300 0x80#8)
    0xD011).getV 0xF#4 = 0x01#8 := by decide
-- T120
theorem test_skp : (stepOn (press 0x7#4 (regs [(1#4, 7#8)])) 0xE19E).pc = 0x0204#16 := by decide
-- T124
theorem test_skp_beyond : record (stepOn (regs [(1#4, 0x10#8)]) 0xE19E) = (true, 4, 0x200, 0xE19E) := by decide
-- T123
theorem test_sknp : (stepOn (press 0x7#4 (regs [(1#4, 7#8)])) 0xE1A1).pc = 0x0202#16 := by decide
-- T112
theorem test_ldVxDt : (stepOn (State.reset.setDt 9#8) 0xF207).getV 0x2#4 = 9#8 := by decide
-- T127: a down-edge on key 7 between two steps of an FX0A
theorem test_ldVxK : (after (step (press 0x7#4 (stepOn (regs [(1#4, 0xAA#8)]) 0xF10A)))).getV 0x1#4 = 0x07#8 := by decide
-- T128, first two steps: a key held at entry does not satisfy the wait
theorem test_ldVxK_held : (after (step (stepOn (press 0x7#4 State.reset) 0xF10A))).pc = 0x0200#16 := by decide
-- T110
theorem test_ldDtVx : (stepOn (regs [(0#4, 0x0A#8)]) 0xF015).dt = 10#8 := by decide
-- T111
theorem test_ldStVx : (stepOn (regs [(3#4, 0x1E#8)]) 0xF318).st = 30#8 := by decide
-- T73
theorem test_addI_wraps : (stepOn ((regs [(2#4, 2#8)]).setI 0xFFFF#16) 0xF21E).i = 0x0001#16 := by decide
-- T75
theorem test_ldF : (stepOn (regs [(0#4, 0xFF#8)]) 0xF029).i = 0x04FB#16 := by decide
-- T76
theorem test_ldB : (stepOn ((regs [(2#4, 0xEA#8)]).setI 0x300#16) 0xF233).mem.readBytes? 0x300 3 =
    some [2#8, 3#8, 4#8] := by decide
-- T80
theorem test_ldB_beyond : record (stepOn (State.reset.setI 0xFFE#16) 0xF033) = (true, 4, 0x200, 0xF033) := by decide
-- T81
theorem test_ldMemVx : (stepOn ((regs [(0#4, 0x11#8), (1#4, 0x22#8), (2#4, 0x33#8)]).setI 0x400#16) 0xF255).mem.readBytes?
    0x400 4 = some [0x11#8, 0x22#8, 0x33#8, 0x00#8] := by decide
-- T84: a store of a byte over the font, and of its reset content back, which unlists the cell
theorem test_ldMemVx_font : (stepOn (regs [(0#4, 0xAA#8)]) 0xF055).mem.read? 0 = some 0xAA#8 ∧
    Memory.store [(0, 0xAA#8)] 0 0xF0#8 = [] := by decide
-- T85
theorem test_ldVxMem : (stepOn (poke (poke ((regs [(3#4, 0x99#8)]).setI 0x300#16) 0x300 2#8) 0x302 4#8) 0xF265).v.toList.take 4 =
    [2#8, 0#8, 4#8, 0x99#8] := by decide
-- T86
theorem test_ldVxMem_beyond : record (stepOn (State.reset.setI 0x1000#16) 0xF065) = (true, 4, 0x200, 0xF065) := by decide

/-! ### Events -/

-- T113
theorem test_tick : (tick ((State.reset.setDt 2#8).setSt 1#8)).dt = 1#8 ∧ (tick (tick ((State.reset.setDt 2#8).setSt 1#8))).st = 0#8 := by
  decide
-- T134: a load over a waiting FX0A returns the arbiter to IDLE
theorem test_load : ((load? [0x61#8, 0x2A#8] State.reset.arm).map fun t => (t.kwWait, t.mem.readBytes? 0x200 2)) =
    some (false, some [0x61#8, 0x2A#8]) := by decide
-- T143
theorem test_reset : (after (step State.reset)).doReset = State.reset := by decide

/-! ### Witnesses: for each statement with hypotheses, and each clause of it, a state and operands that meet them

A statement whose name does not stand here has no hypotheses. -/

/-- A machine waiting at an FX0A (X = 1) at 0x200. -/
def waiting : State := (State.reset.withFetchWord 16 0xF10A).arm

/-- A halted machine: the illegal word 0x0000 was fetched at 0x200 (T1). -/
def halted : State := after (step State.reset)

/-- Reset with I at `a` and one byte `b` there. -/
def sprite (a : Nat) (b : Byte) : State := poke (State.reset.setI (BitVec.ofNat 16 a)) a b

theorem waiting_inv : waiting.Inv where
  mem := by decide
  pc := by unfold State.pcBounded; decide
  stack := fun _ _ hk => absurd hk (Nat.not_lt_zero _)
  arbiter := fun _ => rfl
  waiting := fun _ => ⟨rfl, 0xF10A#16, 0x1#4, by decide, by decide⟩
  latch := ⟨fun _ => ⟨rfl, rfl, rfl⟩, fun h => absurd h (by decide)⟩

theorem halted_inv : halted.Inv where
  mem := by decide
  pc := by unfold State.pcBounded; decide
  stack := fun _ _ hk => absurd hk (Nat.not_lt_zero _)
  arbiter := fun h => absurd h (by decide)
  waiting := fun h => absurd h (by decide)
  latch := ⟨fun h => absurd h (by decide), fun _ => by decide⟩

theorem witness_EncodeOfDecode : decode 0x8125#16 = .ok (.subReg 0x1#4 0x2#4) := by decide

theorem witness_DecodeFollowsOpcodeMap : decode 0x9120#16 = .ok (.sneReg 0x1#4 0x2#4) ∧
    decode 0x9121#16 = .error (.invalidInstruction 0x9121#16) := by decide

theorem witness_StepRunsDecodedInstruction : ∃ s : State, s.halt = false ∧ s.pc.toNat < 4094 ∧
    s.mem.read? s.pc.toNat = some 0x60#8 ∧ s.mem.read? (s.pc.toNat + 1) = some 0x05#8 ∧
    decode (0x60#8 ++ 0x05#8) = .ok (.ldImm 0x0#4 0x05#8) :=
  ⟨State.reset.withFetchWord 16 0x6005, by decide⟩

theorem witness_FetchLimitFaults : (∃ s : State, s.halt = false ∧ s.pc.toNat = 4094) ∧
    ∃ s : State, s.pc.toNat = 4093 ∧ s.mem.read? 4093 = some 0x61#8 ∧ s.mem.read? 4094 = some 0x00#8 :=
  ⟨⟨State.reset.setPc 4094#16, by decide⟩, ⟨(poke State.reset 4093 0x61#8).setPc 4093#16, by decide⟩⟩

theorem witness_DecodeOrInvalidInstruction :
    (∃ s : State, s.halt = false ∧ s.fetch = some 0x5120#16 ∧ ∃ r ∈ opcodeTable, r.selects 0x5120#16 = true) ∧
    ∃ s : State, s.halt = false ∧ s.fetch = some 0x5121#16 ∧ ∀ r ∈ opcodeTable, r.selects 0x5121#16 = false :=
  ⟨⟨State.reset.withFetchWord 16 0x5120, by decide⟩, ⟨State.reset.withFetchWord 16 0x5121, by decide⟩⟩

theorem witness_HaltedUntilReset : halted.halt = true ∧ Event.press 0x3#4 ≠ Event.reset ∧
    applyEvent (.press 0x3#4) halted = .next (press 0x3#4 halted, .silent) := ⟨by decide, by decide, rfl⟩

theorem witness_FaultsArePrecise_fetch : ∃ s t : State, s.halt = false ∧ step s = .next t ∧ t.halt = true ∧ s.fetch = none :=
  ⟨State.reset.setPc 0x10FE#16, _, by decide, rfl, by decide, by decide⟩

theorem witness_FaultsArePrecise_executed : ∃ s t : State, s.halt = false ∧ step s = .next t ∧ t.halt = true ∧
    s.fetch = some 0x00EE#16 :=
  ⟨State.reset.withFetchWord 16 0x00EE, _, by decide, rfl, by decide, by decide⟩

theorem witness_FaultCauses_stack :
    (∃ s t : State, s.halt = false ∧ s.sp.val = 0 ∧ exec .ret s = .next t ∧ t.halt = true) ∧
    ∃ s t : State, s.halt = false ∧ s.sp.val = 16 ∧ exec (.call 0x300#12) s = .next t ∧ t.halt = true :=
  ⟨⟨State.reset, _, by decide, by decide, rfl, by decide⟩, ⟨{ State.reset with sp := 16 }, _, by decide, by decide, rfl, by decide⟩⟩

theorem witness_FaultCauses_memory :
    (∃ s t : State, s.halt = false ∧ s.i.toNat = 0x1000 ∧ exec (.drw 0x0#4 0x1#4 0x1#4) s = .next t ∧ t.halt = true) ∧
    (∃ s t : State, s.halt = false ∧ s.i.toNat = 0xFFE ∧ exec (.ldB 0x2#4) s = .next t ∧ t.halt = true) ∧
    (∃ s t : State, s.halt = false ∧ s.i.toNat = 0xFFE ∧ exec (.ldMemVx 0x2#4) s = .next t ∧ t.halt = true) ∧
    ∃ s t : State, s.halt = false ∧ s.i.toNat = 0xFFE ∧ exec (.ldVxMem 0x2#4) s = .next t ∧ t.halt = true :=
  ⟨⟨State.reset.setI 0x1000#16, _, by decide, by decide, rfl, by decide⟩,
    ⟨State.reset.setI 0xFFE#16, _, by decide, by decide, rfl, by decide⟩,
    ⟨State.reset.setI 0xFFE#16, _, by decide, by decide, rfl, by decide⟩,
    ⟨State.reset.setI 0xFFE#16, _, by decide, by decide, rfl, by decide⟩⟩

theorem witness_FaultCauses_keys :
    (∃ s t : State, s.halt = false ∧ (s.getV 0x1#4).toNat = 16 ∧ exec (.skp 0x1#4) s = .next t ∧ t.halt = true) ∧
    ∃ s t : State, s.halt = false ∧ (s.getV 0x1#4).toNat = 16 ∧ exec (.sknp 0x1#4) s = .next t ∧ t.halt = true :=
  ⟨⟨regs [(0x1#4, 16#8)], _, by decide, by decide, rfl, by decide⟩, ⟨regs [(0x1#4, 16#8)], _, by decide, by decide, rfl, by decide⟩⟩

theorem witness_StepAnswersResult : (∃ t, step waiting = .next t ∧ t.halt = false) ∧ ∃ t, step halted = .next t ∧ t.halt = true :=
  ⟨⟨_, rfl, by decide⟩, ⟨_, rfl, by decide⟩⟩

theorem witness_OnlyListedInstructionsWrite_registers :
    (∃ t, exec (.ldImm 0x3#4 0x01#8) State.reset = .next t ∧ t.getV 0x3#4 ≠ State.reset.getV 0x3#4) ∧
    (∃ t, exec (.ldI 0x300#12) State.reset = .next t ∧ t.i ≠ State.reset.i) ∧
    (∃ t, exec (.call 0x300#12) State.reset = .next t ∧ t.stk ≠ State.reset.stk ∧ t.sp ≠ State.reset.sp) ∧
    (∃ t, exec (.ldDtVx 0x0#4) (regs [(0x0#4, 1#8)]) = .next t ∧ t.dt ≠ 0#8) ∧
    ∃ t, exec (.ldStVx 0x0#4) (regs [(0x0#4, 1#8)]) = .next t ∧ t.st ≠ 0#8 :=
  ⟨⟨_, rfl, by decide⟩, ⟨_, rfl, by decide⟩, ⟨_, rfl, by decide⟩, ⟨_, rfl, by decide⟩, ⟨_, rfl, by decide⟩⟩

theorem witness_OnlyListedInstructionsWrite_rest :
    (∃ t, exec (.ldB 0x0#4) State.reset = .next t ∧ t.mem ≠ State.reset.mem) ∧
    (∃ t, exec (.drw 0x0#4 0x0#4 0x1#4) State.reset = .next t ∧ t.fb ≠ State.reset.fb) ∧
    (∃ t, exec (.ldVxK 0x0#4) State.reset = .next t ∧ t.kwWait ≠ State.reset.kwWait) ∧
    (∃ t, exec (.ldVxK 0x1#4) (press 0x7#4 waiting) = .next t ∧ t.kwValid ≠ (press 0x7#4 waiting).kwValid) ∧
    ∃ t, exec (.rnd 0x0#4 0xFF#8) State.reset = .next t ∧ t.draws ≠ State.reset.draws ∧ t.halt = false :=
  ⟨⟨_, rfl, by decide⟩, ⟨_, rfl, by decide⟩, ⟨_, rfl, by decide⟩, ⟨_, rfl, by decide⟩, ⟨_, rfl, by decide⟩⟩

theorem witness_FlagTable_drw :
    (∃ s t : State, s.halt = false ∧ exec (.drw 0x0#4 0x1#4 0x1#4) s = .next t ∧ t.halt = false ∧ t.getV 0xF#4 = 0x01#8) ∧
    ∃ s t : State, s.halt = false ∧ exec (.drw 0x0#4 0x1#4 0x1#4) s = .next t ∧ t.halt = false ∧ t.getV 0xF#4 = 0x00#8 :=
  ⟨⟨(sprite 0x300 0x80#8).setFb (FrameBuffer.clear.flip 0 0), _, by decide, rfl, by decide, by decide⟩,
    ⟨(sprite 0x300 0x80#8).setFb (FrameBuffer.clear.flip 0 1), _, by decide, rfl, by decide, by decide⟩⟩

theorem witness_FlagTable_only :
    (∃ t, exec (.subReg 0x0#4 0x1#4) (regs [(0x0#4, 2#8), (0x1#4, 1#8)]) = .next t ∧ t.getV 0xF#4 ≠ 0x00#8) ∧
    ∃ t, exec (.ldImm 0xF#4 0x42#8) State.reset = .next t ∧ t.getV 0xF#4 ≠ State.reset.getV 0xF#4 :=
  ⟨⟨_, rfl, by decide⟩, ⟨_, rfl, by decide⟩⟩

theorem witness_StepKeepsInvariant : (waiting.Inv ∧ ∃ t, step waiting = .next t) ∧ halted.Inv ∧ ∃ t, step halted = .next t :=
  ⟨⟨waiting_inv, _, rfl⟩, halted_inv, _, rfl⟩

theorem witness_EventsKeepInvariant : waiting.Inv ∧ ∃ t r, applyEvent (.load [0x12#8, 0x00#8]) waiting = .next (t, r) :=
  ⟨waiting_inv, _, _, rfl⟩

theorem witness_MemoryStaysCanonical : waiting.mem.wf ∧ waiting.mem ≠ [] ∧
    ∃ t r, applyEvent .step waiting = .next (t, r) := ⟨by decide, by decide, _, _, rfl⟩

theorem witness_ReturnPopsStack : (∃ s : State, 0 < s.sp.val ∧ s.sp.val = 1) ∧ ∃ s : State, s.sp.val = 0 :=
  ⟨⟨{ State.reset with sp := 1 }, by decide⟩, ⟨State.reset, by decide⟩⟩

theorem witness_CallPushesNextAddress : (∃ s : State, s.sp.val < 16 ∧ s.sp.val = 15) ∧ ∃ s : State, s.sp.val = 16 :=
  ⟨⟨{ State.reset with sp := 15 }, by decide⟩, ⟨{ State.reset with sp := 16 }, by decide⟩⟩

theorem witness_CallThenReturn : ∃ s : State, s.sp.val < 16 ∧ s.sp.val = 15 := ⟨{ State.reset with sp := 15 }, by decide⟩

/-- AddSetsCarry, SubtractionsSetStrictFlag, ShiftsInPlace: the result clause holds where X is not F. -/
theorem witness_result_clause : (0xE#4 : Nibble) ≠ 0xF#4 := by decide

theorem witness_BcdStore : (∃ s : State, s.mem.wf ∧ s.i.toNat + 2 = 0xFFF) ∧ ∃ s : State, 0xFFF < s.i.toNat + 2 ∧ s.i = 0xFFE#16 :=
  ⟨⟨State.reset.setI 0xFFD#16, by decide⟩, ⟨State.reset.setI 0xFFE#16, by decide⟩⟩

theorem witness_RegisterRangeStore : (∃ s : State, s.mem.wf ∧ s.i.toNat + (0xF#4).toNat = 0xFFF) ∧
    ∃ s : State, 0xFFF < s.i.toNat + (0xF#4).toNat ∧ s.i = 0xFF1#16 :=
  ⟨⟨State.reset.setI 0xFF0#16, by decide⟩, ⟨State.reset.setI 0xFF1#16, by decide⟩⟩

theorem witness_RegisterRangeLoad : (∃ s : State, s.i.toNat + (0x0#4).toNat = 0xFFF) ∧
    ∃ s : State, 0xFFF < s.i.toNat + (0x0#4).toNat ∧ s.i = 0x1000#16 :=
  ⟨⟨State.reset.setI 0xFFF#16, by decide⟩, ⟨State.reset.setI 0x1000#16, by decide⟩⟩

theorem witness_StoredCodeIsFetched : ∃ s : State, s.mem.wf ∧ 1 ≤ (0x1#4).toNat ∧ s.i.toNat + (0x1#4).toNat ≤ 0xFFF ∧
    s.i = s.pc + 2#16 ∧ s.i.toNat < 4094 := ⟨State.reset.setI 0x202#16, by decide⟩

theorem witness_DrawFlipsCoveredPixels_range :
    (∃ s : State, (0x0#4).toNat = 0 ∧ s.i = 0x1000#16) ∧ (∃ s : State, s.i.toNat + (0x1#4).toNat - 1 ≤ 0xFFF ∧ s.i = 0xFFF#16) ∧
    ∃ s : State, 0 < (0x1#4).toNat ∧ 0xFFF < s.i.toNat + (0x1#4).toNat - 1 ∧ s.i = 0x1000#16 :=
  ⟨⟨State.reset.setI 0x1000#16, by decide⟩, ⟨State.reset.setI 0xFFF#16, by decide⟩, ⟨State.reset.setI 0x1000#16, by decide⟩⟩

/-- A covered lit pixel, by the sprite's bit 7 at the last column, and one by its bit 0, wrapped. -/
theorem witness_DrawFlipsCoveredPixels_covered : ∃ s : State, SpriteCovers s 0x0#4 0x1#4 0x1#4 0 63 ∧
    SpriteCovers s 0x0#4 0x1#4 0x1#4 0 6 ∧ s.fb.pixel 0 63 = true :=
  ⟨((sprite 0x300 0x81#8).setV 0x0#4 63#8).setFb (FrameBuffer.clear.flip 0 63),
    ⟨0, 0, 0x81#8, by decide⟩, ⟨0, 7, 0x81#8, by decide⟩, by decide⟩

theorem witness_DrawFlipsCoveredPixels_uncovered : ∃ s : State, ¬ SpriteCovers s 0x0#4 0x1#4 0x1#4 0 0 := by
  refine ⟨(sprite 0x300 0x81#8).setV 0x0#4 63#8, ?_⟩
  rintro ⟨k, j, b, hk, hj, hm, hb, -, hc⟩
  obtain rfl : k = 0 := by simpa using hk
  obtain rfl : b = 0x81#8 := by
    have h : ((sprite 0x300 0x81#8).setV 0x0#4 63#8).mem.read? (((sprite 0x300 0x81#8).setV 0x0#4 63#8).i.toNat + 0) =
        some 0x81#8 := by decide
    exact (Option.some.inj (h.symm.trans hm)).symm
  have hx : (((sprite 0x300 0x81#8).setV 0x0#4 63#8).getV 0x0#4).toNat = 63 := by decide
  obtain rfl : j = 1 := by omega
  exact absurd hb (by decide)

theorem witness_DrawTwiceRestores : (List.replicate 15 0xFF#8).length ≤ 15 := by decide

theorem witness_KeySkips : (∃ s : State, (s.getV 0x1#4).toNat = (0xF#4).toNat) ∧ ∃ s : State, 15 < (s.getV 0x1#4).toNat ∧
    (s.getV 0x1#4).toNat = 16 := ⟨⟨regs [(0x1#4, 15#8)], by decide⟩, ⟨regs [(0x1#4, 16#8)], by decide⟩⟩

theorem witness_KeyReadArbiter : State.reset.kwWait = false ∧ (waiting.kwWait = true ∧ waiting.kwValid = false) ∧
    (press 0xF#4 waiting).kwWait = true ∧ (press 0xF#4 waiting).kwValid = true := by decide

theorem witness_WaitNeedsCapturedEdge : waiting.Inv ∧ waiting.kwWait = true ∧ waiting.kwValid = false :=
  ⟨waiting_inv, by decide, by decide⟩

theorem witness_PressIsEdgeTriggered : (press 0x0#4 State.reset).keyDown 0x0#4 = true ∧
    (waiting.keyDown 0xF#4 = false ∧ waiting.kwWait = true ∧ waiting.kwValid = false) ∧
    (State.reset.keyDown 0xF#4 = false ∧ State.reset.kwWait = false) ∧
    ((press 0x7#4 waiting).keyDown 0xF#4 = false ∧ (press 0x7#4 waiting).kwValid = true) := by decide

theorem witness_ReleaseClearsKey : State.reset.keyDown 0xF#4 = false := by decide

theorem witness_FirstCapturedKeyIsDelivered : ∃ s t : State, s.kwWait = true ∧ s.kwValid = true ∧ s.halt = false ∧
    s.fetch = some 0xF10A#16 ∧ decode 0xF10A#16 = .ok (.ldVxK 0x1#4) ∧
    (∀ e ∈ [Event.press 0x3#4, .release 0x7#4, .tick],
      e = .tick ∨ (∃ k, e = .press k) ∨ (∃ k, e = .release k)) ∧
    [Event.press 0x3#4, .release 0x7#4, .tick].foldlM
      (fun s e => match applyEvent e s with | .next (u, _) => some u | _ => none) s = some t :=
  ⟨press 0x7#4 waiting, _, by decide, by decide, by decide, by decide, by decide, by simp, rfl⟩

theorem witness_LoadCopiesRom : ∃ s : State, s.mem.wf ∧ (List.replicate 3584 0x12#8).length ≤ 3584 :=
  ⟨waiting, by decide, by rw [List.length_replicate]⟩

theorem witness_OversizedLoadRejected : 3584 < (List.replicate 3585 0x12#8).length ∧ State.reset.mem.wf ∧
    (List.replicate 3584 0x12#8).length = 3584 := ⟨by rw [List.length_replicate]; decide, by decide, by rw [List.length_replicate]⟩

theorem witness_ReadDisplayShowsFrame : Event.tick ≠ Event.step ∧ Event.tick ≠ Event.reset ∧
    ∃ t r, applyEvent .tick State.reset = .next (t, r) := ⟨by decide, by decide, _, _, rfl⟩

/-- RunIsBoundedSteps: a run of three steps ends after the first, which halts. -/
theorem witness_RunIsBoundedSteps : 1 < 3 ∧ run 3 State.reset = .next (halted, halted.stepResult) ∧ halted.halt = true :=
  ⟨by decide, rfl, by decide⟩

theorem waiting_step : applyEvent .step waiting = .next (waiting, .stepped .ok) := rfl

theorem waiting_tick : applyEvent .tick waiting = .next (waiting, .silent) := rfl

/-- Steps and ticks by turns. -/
def stepTick (n : Nat) : Event := if n % 2 = 0 then .step else .tick

theorem stepTick_fair : TickFair stepTick := fun n => ⟨2 * n + 1, by omega, by simp [stepTick]⟩

theorem waiting_stepTick (n : Nat) : ∃ r, applyEvent (stepTick n) waiting = .next (waiting, r) := by
  unfold stepTick
  split
  · exact ⟨_, waiting_step⟩
  · exact ⟨_, waiting_tick⟩

/-- The waiting machine with its delay timer at 1 before the first tick and 0 after it. -/
def waitingTrace : Nat → State
  | 0 | 1 => waiting.setDt 1#8
  | _ + 2 => waiting

theorem waitingTrace_isRun : IsRun stepTick waitingTrace
  | 0 => ⟨.stepped .ok, rfl⟩
  | 1 => ⟨.silent, rfl⟩
  | n + 2 => waiting_stepTick (n + 2)

theorem witness_WaitingTimersRunOut : IsRun stepTick waitingTrace ∧ TickFair stepTick ∧ (waitingTrace 0).Inv ∧
    (waitingTrace 0).kwWait = true ∧ (waitingTrace 0).kwValid = false ∧ (waitingTrace 0).dt = 1#8 ∧
    ∀ n, (∀ k, stepTick n ≠ .press k) ∧ (∀ rom, stepTick n ≠ .load rom) ∧ stepTick n ≠ .reset := by
  refine ⟨waitingTrace_isRun, stepTick_fair, ?_, rfl, rfl, rfl, fun n => ?_⟩
  · exact ⟨waiting_inv.mem, waiting_inv.pc, waiting_inv.stack, waiting_inv.arbiter, waiting_inv.waiting, waiting_inv.latch⟩
  · unfold stepTick
    split <;> simp

/-- A program that waits for a key is loaded (70_reset_and_hazards.md R333), then steps and ticks come by turns. -/
def bootSchedule : Nat → Event
  | 0 => .load [0xF1#8, 0x0A#8]
  | n + 1 => stepTick n

def bootTrace : Nat → State
  | 0 => State.reset
  | 1 => State.reset.withFetchWord 16 0xF10A
  | _ + 2 => waiting

theorem witness_CoreRunsMeetInvariant : CoreRun bootSchedule bootTrace where
  start := rfl
  events := fun n => match n with
    | 0 => ⟨.loaded, rfl⟩
    | 1 => ⟨.stepped .ok, rfl⟩
    | n + 2 => waiting_stepTick (n + 1)
  ticks := fun n => ⟨2 * n + 2, by omega, by simp [bootSchedule, stepTick]⟩

end Sys2Proof.Tests
end

section
/-! PROOFS. The flag table of 10_state.md R24: which registers an instruction leaves as they were, when the compositor collides,
and what each flag-defining instruction leaves in VF. -/

namespace Sys2Proof.Machine

variable {s t : State}

/-! ### The registers an instruction leaves as they were -/

theorem getV_of_next_setV {x r : Nibble} {b : Byte} (h : (.next (s.setV x b).advance : Outcome) = .next t)
    (hx : some x ≠ some r) : t.getV r = s.getV r := by
  cases h
  exact State.getV_setV_other s (fun e => hx (congrArg some e.symm)) b

theorem getV_of_next_setVFlag {x r : Nibble} {b : Byte} {f : Bool}
    (h : (.next (s.setVFlag x b f).advance : Outcome) = .next t) (hx : some x ≠ some r) (hr : r ≠ vf) :
    t.getV r = s.getV r := by
  cases h
  have hx' : r ≠ x := fun e => hx (congrArg some e.symm)
  simp [State.getV_setVFlag, hr, hx']

theorem getV_of_execRet (h : execRet s = .next t) (r : Nibble) : t.getV r = s.getV r := by
  unfold execRet at h
  obtain ⟨_, hp⟩ | ⟨-, hp⟩ := s.pop?_cases <;> rw [hp] at h <;> cases h <;> rfl

theorem getV_of_execCall {nnn : Addr12} (h : execCall nnn s = .next t) (r : Nibble) : t.getV r = s.getV r := by
  unfold execCall at h
  obtain ⟨_, hp⟩ | ⟨-, hp⟩ := s.push?_cases s.npc <;> rw [hp] at h <;> cases h <;> rfl

theorem getV_of_execSkp {x : Nibble} (h : execSkp x s = .next t) (r : Nibble) : t.getV r = s.getV r := by
  unfold execSkp at h
  split at h <;> cases h <;> rfl

theorem getV_of_execSknp {x : Nibble} (h : execSknp x s = .next t) (r : Nibble) : t.getV r = s.getV r := by
  unfold execSknp at h
  split at h <;> cases h <;> rfl

theorem getV_of_storeAtI? {bs : List Byte} (h : s.storeAtI? bs = some t) (r : Nibble) : t.getV r = s.getV r := by
  obtain ⟨m, -, rfl⟩ := Option.map_eq_some_iff.mp h
  rfl

theorem getV_of_execLdB {x : Nibble} (h : execLdB x s = .next t) (r : Nibble) : t.getV r = s.getV r := by
  unfold execLdB at h
  split at h
  · next hu => cases h; exact getV_of_storeAtI? hu r
  · cases h; rfl

theorem getV_of_execLdMemVx {x : Nibble} (h : execLdMemVx x s = .next t) (r : Nibble) : t.getV r = s.getV r := by
  unfold execLdMemVx at h
  split at h
  · next hu => cases h; exact getV_of_storeAtI? hu r
  · cases h; rfl

/-- FX65 leaves the registers above X (43_index_memory.md R200): the bytes read end at `V[X]`. -/
theorem getV_of_execLdVxMem {x r : Nibble} (h : execLdVxMem x s = .next t) (hr : x.toNat < r.toNat) :
    t.getV r = s.getV r := by
  unfold execLdVxMem at h
  obtain ⟨-, hb⟩ | ⟨-, -, hb⟩ := s.bytesAtI?_cases (x.toNat + 1) <;> rw [hb] at h <;> cases h
  · rw [State.advance_getV, State.getV_loadV, List.getD_eq_default]
    simpa using hr
  · rfl

theorem getV_of_execLdVxK {x r : Nibble} (h : execLdVxK x s = .next t) (hx : some x ≠ some r) : t.getV r = s.getV r := by
  have hx' : r ≠ x := fun e => hx (congrArg some e.symm)
  unfold execLdVxK at h
  split at h
  · split at h <;> cases h
    · exact State.getV_setV_other s hx' _
    · rfl
  · cases h; rfl

/-- Everything a DXYN can answer (44_display.md R214): the sprite drawn and the collision in VF, or the fault. -/
theorem execDrw_cases (x y n : Nibble) (s : State) :
    (∃ sprite, sprite.length = n.toNat ∧ s.bytesAtI? n.toNat = some sprite ∧
      execDrw x y n s = .next ((s.setFb (draw (s.getV x) (s.getV y) sprite s.fb).1).setV vf
        (flagByte (draw (s.getV x) (s.getV y) sprite s.fb).2)).advance) ∨
    (memSize < s.i.toNat + n.toNat ∧ execDrw x y n s = .next (s.latch .outOfBounds (encode (.drw x y n)))) := by
  unfold execDrw
  obtain ⟨-, hb⟩ | ⟨-, hi, hb⟩ := s.bytesAtI?_cases n.toNat
  · exact .inl ⟨_, by simp, hb, by rw [hb]⟩
  · exact .inr ⟨hi, by rw [hb]; rfl⟩

theorem getV_of_execDrw {x y n r : Nibble} (h : execDrw x y n s = .next t) (hr : r ≠ vf) : t.getV r = s.getV r := by
  obtain ⟨_, -, -, hd⟩ | ⟨-, hd⟩ := execDrw_cases x y n s <;> rw [hd] at h <;> cases h
  · exact State.getV_setV_other _ hr _
  · rfl

/-- A register is written only as an instruction's destination, in FX65's range, or, if it is VF, as a flag (10_state.md R22,
R24). -/
theorem exec_getV_of_not_destination {i : Instr} {r : Nibble} (h : exec i s = .next t) (hx : xDestination? i ≠ some r)
    (hflag : definesFlag i = true → r ≠ vf) (hload : ∀ x, i = .ldVxMem x → x.toNat < r.toNat) :
    t.getV r = s.getV r := by
  cases i with
  | cls | jp _ | seImm _ _ | sneImm _ _ | seReg _ _ | sneReg _ _ | ldI _ | jpV0 _ | ldDtVx _ | ldStVx _ | addI _ | ldF _ =>
    cases h; rfl
  | ldImm _ _ | addImm _ _ | ldReg _ _ | orReg _ _ | andReg _ _ | xorReg _ _ | ldVxDt _ => exact getV_of_next_setV h hx
  | rnd x nn => cases h; exact State.getV_setV_other s (fun e => hx (congrArg some e.symm)) _
  | addReg _ _ | subReg _ _ | shr _ _ | subnReg _ _ | shl _ _ => exact getV_of_next_setVFlag h hx (hflag rfl)
  | ret => exact getV_of_execRet h r
  | call _ => exact getV_of_execCall h r
  | drw _ _ _ => exact getV_of_execDrw h (hflag rfl)
  | skp _ => exact getV_of_execSkp h r
  | sknp _ => exact getV_of_execSknp h r
  | ldVxK _ => exact getV_of_execLdVxK h hx
  | ldB _ => exact getV_of_execLdB h r
  | ldMemVx _ => exact getV_of_execLdMemVx h r
  | ldVxMem x => exact getV_of_execLdVxMem h (hload x rfl)

/-- The third clause of the flag table: VF changes as a flag or as the ordinary destination. VF is the last register, so FX65
reaches it only as `V[X]`. -/
theorem definesFlag_or_xDestination_of_vf_changed {i : Instr} (h : exec i s = .next t) (hv : t.getV vf ≠ s.getV vf) :
    definesFlag i = true ∨ xDestination? i = some vf := by
  by_contra hc
  obtain ⟨hflag, hx⟩ := not_or.mp hc
  refine hv (exec_getV_of_not_destination h hx (fun e => absurd e hflag) ?_)
  rintro x rfl
  have hne : x.toNat ≠ vf.toNat := nibble_toNat_ne fun e => hx (congrArg some e)
  have hvf : vf.toNat = 15 := rfl
  have := x.isLt
  omega

/-! ### The collision of a sprite -/

/-- Some pixel is lit in `fb` and dark in `fb'` (44_display.md R215). -/
def SomePixelTurnedOff (fb fb' : FrameBuffer) : Prop :=
  ∃ r c, r < 32 ∧ c < 64 ∧ fb.pixel r c = true ∧ fb'.pixel r c = false

/-- The row and column bounds of a pixel turned off come for free, since a pixel read wraps (44_display.md R213). -/
theorem somePixelTurnedOff_iff {fb fb' : FrameBuffer} :
    SomePixelTurnedOff fb fb' ↔ ∃ r c, fb.pixel r c = true ∧ fb'.pixel r c = false := by
  constructor
  · rintro ⟨r, c, -, -, hp⟩
    exact ⟨r, c, hp⟩
  · rintro ⟨r, c, hp, hp'⟩
    exact ⟨r % 32, c % 64, Nat.mod_lt _ (by decide), Nat.mod_lt _ (by decide),
      by rwa [FrameBuffer.pixel_wrap], by rwa [FrameBuffer.pixel_wrap]⟩

/-- A drawing collides exactly when it turns some pixel off (44_display.md R215): a pixel its sprite hits is inverted, any
other stays. -/
theorem draw_collides_iff (x y : Byte) {sprite : List Byte} (fb : FrameBuffer) (hl : sprite.length ≤ 32) :
    (draw x y sprite fb).2 = true ↔ SomePixelTurnedOff fb (draw x y sprite fb).1 := by
  rw [somePixelTurnedOff_iff, draw, drawRows_collides _ _ _ _ hl]
  simp only [drawRows_pixel _ _ _ _ _ _ hl, Bool.false_eq_true, false_or]
  refine exists₂_congr fun r c => ?_
  cases fb.pixel r c <;> simp

/-- A DXYN that completes leaves the collision in VF: 1 exactly when it turned some pixel off (10_state.md R24). -/
theorem getV_vf_of_execDrw {x y n : Nibble} (h : execDrw x y n s = .next t) (hh : t.halt = false) :
    (t.getV vf = 0x01#8 ∧ SomePixelTurnedOff s.fb t.fb) ∨ (t.getV vf = 0x00#8 ∧ ¬ SomePixelTurnedOff s.fb t.fb) := by
  obtain ⟨sprite, hl, -, hd⟩ | ⟨-, hd⟩ := execDrw_cases x y n s <;> rw [hd] at h <;> cases h
  · have hlen : sprite.length ≤ 32 := by have := n.isLt; omega
    have hcol := draw_collides_iff (s.getV x) (s.getV y) s.fb hlen
    simp only [State.advance_getV, State.getV_setV_same, State.advance_fb, State.setV_fb, State.setFb_fb, ← hcol]
    cases (draw (s.getV x) (s.getV y) sprite s.fb).2 <;> simp [flagByte]
  · simp at hh

/-! ### The flags of the ALU -/

theorem flagByte_carryFlag (a b : Byte) :
    flagByte (carryFlag a b) = if a.toNat + b.toNat > 255 then 0x01#8 else 0x00#8 := by simp [flagByte, carryFlag]

theorem flagByte_greaterFlag (a b : Byte) :
    flagByte (greaterFlag a b) = if a.toNat > b.toNat then 0x01#8 else 0x00#8 := by simp [flagByte, greaterFlag]

/-- The five ALU instructions of the flag table complete and leave their flag in VF, whatever X is (42_alu.md R168): the commit
writes the flag last. -/
theorem getV_vf_of_alu (x y : Nibble) (s : State) :
    (∃ t, exec (.addReg x y) s = .next t ∧ t.getV vf = flagByte (carryFlag (s.getV x) (s.getV y))) ∧
    (∃ t, exec (.subReg x y) s = .next t ∧ t.getV vf = flagByte (greaterFlag (s.getV x) (s.getV y))) ∧
    (∃ t, exec (.shr x y) s = .next t ∧ t.getV vf = flagByte (lowBitFlag (s.getV x))) ∧
    (∃ t, exec (.subnReg x y) s = .next t ∧ t.getV vf = flagByte (greaterFlag (s.getV y) (s.getV x))) ∧
    (∃ t, exec (.shl x y) s = .next t ∧ t.getV vf = flagByte (highBitFlag (s.getV x))) :=
  ⟨⟨_, rfl, s.getV_setVFlag_vf ..⟩, ⟨_, rfl, s.getV_setVFlag_vf ..⟩, ⟨_, rfl, s.getV_setVFlag_vf ..⟩,
    ⟨_, rfl, s.getV_setVFlag_vf ..⟩, ⟨_, rfl, s.getV_setVFlag_vf ..⟩⟩

/-- Settles O15: the ALU's flags, the collision of a completed DXYN, and the registers an instruction leaves as they were. -/
theorem flagTable : Obligations.FlagTable := by
  unfold Obligations.FlagTable
  refine ⟨fun x y s => ?_, fun x y n s t _ h ht => getV_vf_of_execDrw h ht,
    fun i s t => definesFlag_or_xDestination_of_vf_changed⟩
  have halu := getV_vf_of_alu x y s
  rwa [flagByte_carryFlag, flagByte_greaterFlag, flagByte_greaterFlag] at halu

end Sys2Proof.Machine
end

section
/-! PROOFS. The instruction word in memory (20_memory.md R62): what a fetch below the limit answers, from the two bytes at PC. -/

namespace Sys2Proof.Machine

/-- Below the fetch limit the word is the byte at PC followed by the byte at PC + 1, the high one first (20_memory.md R62). -/
theorem State.fetch_of_read? {s : State} {hi lo : Byte} (hpc : s.pc.toNat < pcFetchLimit)
    (hhi : s.mem.read? s.pc.toNat = some hi) (hlo : s.mem.read? (s.pc.toNat + 1) = some lo) :
    s.fetch = some (hi ++ lo) := by
  simp only [State.fetch, if_pos hpc, hhi, hlo, wordOfBytes]

/-- Settles O6: below the limit the fetched word is the two bytes at PC, and a step runs the instruction it decodes to. -/
theorem stepRunsDecodedInstruction : Obligations.StepRunsDecodedInstruction := by
  unfold Obligations.StepRunsDecodedInstruction
  intro s hi lo i hhalt hpc hhi hlo hdec
  have hfetch : s.fetch = some (hi ++ lo) := State.fetch_of_read? hpc hhi hlo
  exact step_of_decode hhalt hfetch hdec

end Sys2Proof.Machine
end

section
/-! PROOFS. Jumps and skips (41_flow.md): both write PC and nothing else, so one frame lemma for a write of PC carries them. -/

namespace Sys2Proof.Machine

/-- A write of PC leaves every other piece of state as it was (40_fetch_dispatch.md R126). -/
theorem State.unchangedBut_setPc (s : State) (w : Word) : UnchangedBut (only [.pc]) s (s.setPc w) where
  v _ _ := rfl
  i _ := rfl
  pc h := absurd (List.mem_singleton_self _) h
  stk _ _ _ := rfl
  sp _ := rfl
  mem _ _ := rfl
  fb _ := rfl
  dt _ := rfl
  st _ := rfl
  key _ _ := rfl
  kwWait _ := rfl
  kwValid _ := rfl
  kwKey _ := rfl
  latch _ := ⟨rfl, rfl, rfl, rfl⟩
  draws _ := rfl

theorem toNat_zextAddr (nnn : Addr12) : (zextAddr nnn).toNat = nnn.toNat := BitVec.toNat_setWidth_of_le (by decide)

/-- What an instruction does whose effect is a conditional skip, for any condition `p` that its test `taken` decides
(41_flow.md R151). -/
theorem skips_of_exec_eq {i : Instr} {s : State} {taken : Bool} {p : Prop} [Decidable p]
    (h : exec i s = .next (s.skipIf taken)) (hp : taken = true ↔ p) :
    ∃ t, exec i s = .next t ∧ t.pc = (if p then s.pc + 2#16 + 2#16 else s.pc + 2#16) ∧
      UnchangedBut (only [.pc]) s t := by
  refine ⟨s.skipIf taken, h, ?_, s.unchangedBut_setPc _⟩
  simp only [State.skipIf_pc, State.npc, hp]

/-- Settles O21: 1NNN is a write of PC, and the twelve bits of NNN keep their value in sixteen. -/
theorem jumpGoesToTarget : Obligations.JumpGoesToTarget := by
  unfold Obligations.JumpGoesToTarget
  intro nnn s
  exact ⟨s.setPc (zextAddr nnn), rfl, toNat_zextAddr nnn, s.unchangedBut_setPc _⟩

/-- Settles O24: both are conditional skips, whose tests compare VX with NN. -/
theorem immediateSkips : Obligations.ImmediateSkips := by
  unfold Obligations.ImmediateSkips
  intro x nn s
  exact ⟨skips_of_exec_eq rfl beq_iff_eq, skips_of_exec_eq rfl bne_iff_ne⟩

/-- Settles O25: both are conditional skips, whose tests compare VX with VY, whether or not X = Y. -/
theorem registerSkips : Obligations.RegisterSkips := by
  unfold Obligations.RegisterSkips
  intro x y s
  exact ⟨skips_of_exec_eq rfl beq_iff_eq, skips_of_exec_eq rfl bne_iff_ne⟩

end Sys2Proof.Machine
end

section
/-! PROOFS. Registers (42_alu.md): a frame lemma per write, composed along the writes of an instruction, and what the two
commits of the ALU leave: `V[X]` alone, or `V[X]` and then the flag. -/

namespace Sys2Proof.Machine

variable {s t u : State}

/-! ### Frames compose -/

theorem UnchangedBut.trans {w : Part → Prop} (h₁ : UnchangedBut w s t) (h₂ : UnchangedBut w t u) :
    UnchangedBut w s u where
  v r h := (h₂.v r h).trans (h₁.v r h)
  i h := (h₂.i h).trans (h₁.i h)
  pc h := (h₂.pc h).trans (h₁.pc h)
  stk k hk h := (h₂.stk k hk h).trans (h₁.stk k hk h)
  sp h := (h₂.sp h).trans (h₁.sp h)
  mem a h := (h₂.mem a h).trans (h₁.mem a h)
  fb h := (h₂.fb h).trans (h₁.fb h)
  dt h := (h₂.dt h).trans (h₁.dt h)
  st h := (h₂.st h).trans (h₁.st h)
  key k h := (h₂.key k h).trans (h₁.key k h)
  kwWait h := (h₂.kwWait h).trans (h₁.kwWait h)
  kwValid h := (h₂.kwValid h).trans (h₁.kwValid h)
  kwKey h := (h₂.kwKey h).trans (h₁.kwKey h)
  latch h :=
    have ⟨halt₁, kind₁, pc₁, op₁⟩ := h₁.latch h
    have ⟨halt₂, kind₂, pc₂, op₂⟩ := h₂.latch h
    ⟨halt₂.trans halt₁, kind₂.trans kind₁, pc₂.trans pc₁, op₂.trans op₁⟩
  draws h := (h₂.draws h).trans (h₁.draws h)

theorem UnchangedBut.mono {w w' : Part → Prop} (h : UnchangedBut w s t) (hw : ∀ p, w p → w' p) :
    UnchangedBut w' s t where
  v r hr := h.v r (mt (hw _) hr)
  i hp := h.i (mt (hw _) hp)
  pc hp := h.pc (mt (hw _) hp)
  stk k hk hp := h.stk k hk (mt (hw _) hp)
  sp hp := h.sp (mt (hw _) hp)
  mem a hp := h.mem a (mt (hw _) hp)
  fb hp := h.fb (mt (hw _) hp)
  dt hp := h.dt (mt (hw _) hp)
  st hp := h.st (mt (hw _) hp)
  key k hp := h.key k (mt (hw _) hp)
  kwWait hp := h.kwWait (mt (hw _) hp)
  kwValid hp := h.kwValid (mt (hw _) hp)
  kwKey hp := h.kwKey (mt (hw _) hp)
  latch hp := h.latch (mt (hw _) hp)
  draws hp := h.draws (mt (hw _) hp)

/-- A frame that names one piece holds of every list with that piece in it. -/
theorem UnchangedBut.only_of_mem {p : Part} {ps : List Part} (h : UnchangedBut (only [p]) s t) (hp : p ∈ ps) :
    UnchangedBut (only ps) s t :=
  h.mono fun _ hq => List.mem_singleton.mp hq ▸ hp

/-! ### The frames of a register write and of the two ALU commits -/

/-- A write of `V[X]` leaves every other piece of state as it was (40_fetch_dispatch.md R126). -/
theorem State.unchangedBut_setV (s : State) (x : Nibble) (b : Byte) : UnchangedBut (only [.v x]) s (s.setV x b) where
  v _ h := State.getV_setV_other s (fun e => h (List.mem_singleton.mpr (congrArg Part.v e))) b
  i _ := rfl
  pc _ := rfl
  stk _ _ _ := rfl
  sp _ := rfl
  mem _ _ := rfl
  fb _ := rfl
  dt _ := rfl
  st _ := rfl
  key _ _ := rfl
  kwWait _ := rfl
  kwValid _ := rfl
  kwKey _ := rfl
  latch _ := ⟨rfl, rfl, rfl, rfl⟩
  draws _ := rfl

theorem State.unchangedBut_setV_advance (s : State) (x : Nibble) (b : Byte) :
    UnchangedBut (only [.v x, .pc]) s (s.setV x b).advance :=
  ((s.unchangedBut_setV x b).only_of_mem (by simp)).trans ((State.unchangedBut_setPc _ _).only_of_mem (by simp))

/-- The flag's commit is two register writes, of `V[X]` and of VF (42_alu.md R168). -/
theorem State.unchangedBut_setVFlag_advance (s : State) (x : Nibble) (b : Byte) (f : Bool) :
    UnchangedBut (only [.v x, .v vf, .pc]) s (s.setVFlag x b f).advance :=
  have result := (s.unchangedBut_setV x b).only_of_mem (ps := [.v x, .v vf, .pc]) (by simp)
  have flag := ((s.setV x b).unchangedBut_setV vf (flagByte f)).only_of_mem (by simp)
  (result.trans flag).trans ((State.unchangedBut_setPc _ _).only_of_mem (by simp))

/-! ### What an instruction does whose effect is one of the two commits -/

theorem writesV_of_exec_eq {i : Instr} {x : Nibble} {b : Byte} (h : exec i s = .next (s.setV x b).advance) :
    ∃ t, exec i s = .next t ∧ t.getV x = b ∧ t.pc = s.pc + 2#16 ∧ UnchangedBut (only [.v x, .pc]) s t :=
  ⟨_, h, s.getV_setV_same x b, rfl, s.unchangedBut_setV_advance x b⟩

/-- The result stands in `V[X]` unless the flag, written last, has replaced it (42_alu.md R168). -/
theorem writesVFlag_of_exec_eq {i : Instr} {x : Nibble} {b flag : Byte} {f : Bool} {n : Nat}
    (h : exec i s = .next (s.setVFlag x b f).advance) (hb : b.toNat = n) (hf : flagByte f = flag) :
    ∃ t, exec i s = .next t ∧ (x ≠ vf → (t.getV x).toNat = n) ∧ t.getV vf = flag ∧ t.pc = s.pc + 2#16 ∧
      UnchangedBut (only [.v x, .v vf, .pc]) s t := by
  refine ⟨_, h, fun hx => ?_, (s.getV_setVFlag_vf x b f).trans hf, rfl, s.unchangedBut_setVFlag_advance x b f⟩
  rw [State.advance_getV, State.getV_setVFlag, if_neg hx, if_pos rfl, hb]

/-! ### The results and flags as numbers -/

/-- The two cases of 42_alu.md R163 are the one difference modulo 256. -/
theorem subMod_toNat_mod (a b : Byte) : (subMod a b).toNat = (a.toNat + 256 - b.toNat) % 256 := by
  have := a.isLt
  rw [subMod_toNat]
  split <;> omega

theorem toNat_ushiftRight_one (a : Byte) : (a >>> 1).toNat = a.toNat / 2 := by
  rw [BitVec.toNat_ushiftRight, Nat.shiftRight_one]

theorem toNat_shiftLeft_one (a : Byte) : (a <<< 1).toNat = a.toNat * 2 % 256 := by
  rw [BitVec.toNat_shiftLeft, Nat.shiftLeft_eq, pow_one]

theorem flagByte_toNat (f : Bool) : (flagByte f).toNat = f.toNat := by cases f <;> rfl

theorem flagByte_lowBitFlag_toNat (a : Byte) : (flagByte (lowBitFlag a)).toNat = a.toNat % 2 := by
  rw [flagByte_toNat, lowBitFlag, BitVec.getLsbD, Nat.toNat_testBit, pow_zero, Nat.div_one]

/-- A byte is below 256, so its quotient by 128 is its bit 7 alone. -/
theorem flagByte_highBitFlag_toNat (a : Byte) : (flagByte (highBitFlag a)).toNat = a.toNat / 128 := by
  have := a.isLt
  rw [flagByte_toNat, highBitFlag, BitVec.getLsbD, Nat.toNat_testBit]
  omega

/-! ### The obligations -/

/-- Settles O27: both are a write of VX, the second of the sum modulo 256. -/
theorem immediateLoadAndAdd : Obligations.ImmediateLoadAndAdd := by
  unfold Obligations.ImmediateLoadAndAdd
  intro x nn s
  obtain ⟨t, hexec, hx, hrest⟩ := writesV_of_exec_eq (i := .addImm x nn) (s := s) rfl
  exact ⟨writesV_of_exec_eq rfl, t, hexec, by rw [hx, addMod_toNat], hrest⟩

/-- Settles O28: the four are a write of VX, and none touches VF unless it is VX. -/
theorem registerCopyAndLogic : Obligations.RegisterCopyAndLogic := by
  unfold Obligations.RegisterCopyAndLogic
  intro x y s
  exact ⟨writesV_of_exec_eq rfl, writesV_of_exec_eq rfl, writesV_of_exec_eq rfl, writesV_of_exec_eq rfl⟩

/-- Settles O29: the flag's commit with the sum and its carry. -/
theorem addSetsCarry : Obligations.AddSetsCarry := by
  unfold Obligations.AddSetsCarry
  intro x y s
  exact writesVFlag_of_exec_eq rfl (addMod_toNat _ _) (flagByte_carryFlag _ _)

/-- Settles O30: the flag's commit with the difference and the strict comparison, the operands in either order. -/
theorem subtractionsSetStrictFlag : Obligations.SubtractionsSetStrictFlag := by
  unfold Obligations.SubtractionsSetStrictFlag
  intro x y s
  exact ⟨writesVFlag_of_exec_eq rfl (subMod_toNat_mod _ _) (flagByte_greaterFlag _ _),
    writesVFlag_of_exec_eq rfl (subMod_toNat_mod _ _) (flagByte_greaterFlag _ _)⟩

/-- Settles O31: the flag's commit with VX shifted and the bit shifted out; Y is not read. -/
theorem shiftsInPlace : Obligations.ShiftsInPlace := by
  unfold Obligations.ShiftsInPlace
  intro x y s
  obtain ⟨t, hshr, hxr, hfr, hrestr⟩ := writesVFlag_of_exec_eq (i := .shr x y) (s := s) rfl (toNat_ushiftRight_one _) rfl
  obtain ⟨u, hshl, hxl, hfl, hrestl⟩ := writesVFlag_of_exec_eq (i := .shl x y) (s := s) rfl (toNat_shiftLeft_one _) rfl
  exact ⟨⟨t, hshr, hxr, (congrArg BitVec.toNat hfr).trans (flagByte_lowBitFlag_toNat _), hrestr⟩,
    u, hshl, hxl, (congrArg BitVec.toNat hfl).trans (flagByte_highBitFlag_toNat _), hrestl⟩

end Sys2Proof.Machine
end

section
/-! PROOFS. The index register (43_index_memory.md): the frame of a write of I, and what an instruction leaves whose effect
is that write. -/

namespace Sys2Proof.Machine

/-- A write of I leaves every other piece of state as it was (40_fetch_dispatch.md R126). -/
theorem State.unchangedBut_setI (s : State) (w : Word) : UnchangedBut (only [.i]) s (s.setI w) where
  v _ _ := rfl
  i h := absurd (List.mem_singleton_self _) h
  pc _ := rfl
  stk _ _ _ := rfl
  sp _ := rfl
  mem _ _ := rfl
  fb _ := rfl
  dt _ := rfl
  st _ := rfl
  key _ _ := rfl
  kwWait _ := rfl
  kwValid _ := rfl
  kwKey _ := rfl
  latch _ := ⟨rfl, rfl, rfl, rfl⟩
  draws _ := rfl

theorem State.unchangedBut_setI_advance (s : State) (w : Word) :
    UnchangedBut (only [.i, .pc]) s (s.setI w).advance :=
  ((s.unchangedBut_setI w).only_of_mem (by simp)).trans ((State.unchangedBut_setPc _ _).only_of_mem (by simp))

/-- What an instruction does whose effect is a write of I, for any value `n` of the word written. -/
theorem writesI_of_exec_eq {i : Instr} {s : State} {w : Word} {n : Nat} (h : exec i s = .next (s.setI w).advance)
    (hw : w.toNat = n) :
    ∃ t, exec i s = .next t ∧ t.i.toNat = n ∧ t.pc = s.pc + 2#16 ∧ UnchangedBut (only [.i, .pc]) s t :=
  ⟨_, h, hw, rfl, s.unchangedBut_setI_advance w⟩

/-- Settles O33: ANNN is a write of I, and the twelve bits of NNN keep their value in sixteen. -/
theorem indexImmediate : Obligations.IndexImmediate := by
  unfold Obligations.IndexImmediate
  intro nnn s
  exact writesI_of_exec_eq rfl (toNat_zextAddr nnn)

end Sys2Proof.Machine
end

section
/-! PROOFS. The display (44_display.md): the frame of a write of the frame buffer, and the clear screen. -/

namespace Sys2Proof.Machine

/-- A write of the frame buffer leaves every other piece of state as it was (40_fetch_dispatch.md R126). -/
theorem State.unchangedBut_setFb (s : State) (fb : FrameBuffer) : UnchangedBut (only [.fb]) s (s.setFb fb) where
  v _ _ := rfl
  i _ := rfl
  pc _ := rfl
  stk _ _ _ := rfl
  sp _ := rfl
  mem _ _ := rfl
  fb h := absurd (List.mem_singleton_self _) h
  dt _ := rfl
  st _ := rfl
  key _ _ := rfl
  kwWait _ := rfl
  kwValid _ := rfl
  kwKey _ := rfl
  latch _ := ⟨rfl, rfl, rfl, rfl⟩
  draws _ := rfl

theorem State.unchangedBut_setFb_advance (s : State) (fb : FrameBuffer) :
    UnchangedBut (only [.fb, .pc]) s (s.setFb fb).advance :=
  ((s.unchangedBut_setFb fb).only_of_mem (by simp)).trans ((State.unchangedBut_setPc _ _).only_of_mem (by simp))

/-- Settles O39: 00E0 is a write of the frame buffer, and the buffer written has no lit pixel. -/
theorem clearScreen : Obligations.ClearScreen := by
  unfold Obligations.ClearScreen
  intro s
  exact ⟨(s.setFb FrameBuffer.clear).advance, rfl, FrameBuffer.pixel_clear, rfl, s.unchangedBut_setFb_advance _⟩

end Sys2Proof.Machine
end

section
/-! PROOFS. The timers (45_timers.md): the frame of a write of each counter, the countdown as subtraction on numbers, and what
a counter holds after any number of ticks. -/

namespace Sys2Proof.Machine

/-! ### The frames of a write of DT and of ST -/

/-- A write of DT leaves every other piece of state as it was (40_fetch_dispatch.md R126). -/
theorem State.unchangedBut_setDt (s : State) (b : Byte) : UnchangedBut (only [.dt]) s (s.setDt b) where
  v _ _ := rfl
  i _ := rfl
  pc _ := rfl
  stk _ _ _ := rfl
  sp _ := rfl
  mem _ _ := rfl
  fb _ := rfl
  dt h := absurd (List.mem_singleton_self _) h
  st _ := rfl
  key _ _ := rfl
  kwWait _ := rfl
  kwValid _ := rfl
  kwKey _ := rfl
  latch _ := ⟨rfl, rfl, rfl, rfl⟩
  draws _ := rfl

/-- A write of ST leaves every other piece of state as it was (40_fetch_dispatch.md R126). -/
theorem State.unchangedBut_setSt (s : State) (b : Byte) : UnchangedBut (only [.st]) s (s.setSt b) where
  v _ _ := rfl
  i _ := rfl
  pc _ := rfl
  stk _ _ _ := rfl
  sp _ := rfl
  mem _ _ := rfl
  fb _ := rfl
  dt _ := rfl
  st h := absurd (List.mem_singleton_self _) h
  key _ _ := rfl
  kwWait _ := rfl
  kwValid _ := rfl
  kwKey _ := rfl
  latch _ := ⟨rfl, rfl, rfl, rfl⟩
  draws _ := rfl

theorem State.unchangedBut_setDt_advance (s : State) (b : Byte) :
    UnchangedBut (only [.dt, .pc]) s (s.setDt b).advance :=
  ((s.unchangedBut_setDt b).only_of_mem (by simp)).trans ((State.unchangedBut_setPc _ _).only_of_mem (by simp))

theorem State.unchangedBut_setSt_advance (s : State) (b : Byte) :
    UnchangedBut (only [.st, .pc]) s (s.setSt b).advance :=
  ((s.unchangedBut_setSt b).only_of_mem (by simp)).trans ((State.unchangedBut_setPc _ _).only_of_mem (by simp))

/-! ### The countdown -/

/-- The two cases of 45_timers.md R234 are the one subtraction that stops at 0. -/
theorem decrement_toNat (b : Byte) : (decrement b).toNat = b.toNat - 1 := by
  unfold decrement
  split
  next hpos => exact BitVec.toNat_sub_of_le (BitVec.le_def.mpr hpos)
  next hzero => omega

@[simp] theorem tick_dt (s : State) : (tick s).dt = decrement s.dt := rfl

theorem iterate_tick_dt_toNat (k : Nat) (s : State) : (tick^[k] s).dt.toNat = s.dt.toNat - k := by
  induction k with
  | zero => rfl
  | succ k ih => rw [Function.iterate_succ_apply', tick_dt, decrement_toNat, ih, Nat.sub_sub]

/-! ### The obligations -/

/-- Settles O44: the ticks count down the value FX15 wrote, and FX07 copies what they left. -/
theorem timerDecay : Obligations.TimerDecay := by
  unfold Obligations.TimerDecay
  intro x z k s
  have hdt : (tick^[k] (s.setDt (s.getV x)).advance).dt.toNat = (s.getV x).toNat - k := iterate_tick_dt_toNat k _
  obtain ⟨u, hexec, hz, -⟩ := writesV_of_exec_eq (i := .ldVxDt z) (s := tick^[k] (s.setDt (s.getV x)).advance) rfl
  exact ⟨_, rfl, hdt, u, hexec, (congrArg BitVec.toNat hz).trans hdt⟩

/-- Settles O42: a write of VX, of DT and of ST. -/
theorem timerInstructions : Obligations.TimerInstructions := by
  unfold Obligations.TimerInstructions
  intro x s
  exact ⟨writesV_of_exec_eq rfl, ⟨_, rfl, rfl, rfl, s.unchangedBut_setDt_advance _⟩,
    ⟨_, rfl, rfl, rfl, s.unchangedBut_setSt_advance _⟩⟩

end Sys2Proof.Machine
end

section
/-! PROOFS. The key events (46_input.md): the frames of a key write and of a capture, and what a press and a release leave. -/

namespace Sys2Proof.Machine

/-! ### The frames of a key write and of a capture -/

/-- A write of `KEYS[k]` leaves every other piece of state, the other keys included, as it was (40_fetch_dispatch.md R126). -/
theorem State.unchangedBut_setKey (s : State) (k : Nibble) (d : Bool) : UnchangedBut (only [.key k]) s (s.setKey k d) where
  v _ _ := rfl
  i _ := rfl
  pc _ := rfl
  stk _ _ _ := rfl
  sp _ := rfl
  mem _ _ := rfl
  fb _ := rfl
  dt _ := rfl
  st _ := rfl
  key k' h := (s.keyDown_setKey k k' d).trans (if_neg fun e => h (List.mem_singleton.mpr (congrArg Part.key e)))
  kwWait _ := rfl
  kwValid _ := rfl
  kwKey _ := rfl
  latch _ := ⟨rfl, rfl, rfl, rfl⟩
  draws _ := rfl

/-- A capture writes `KW_VALID` and `KW_KEY` and leaves every other piece of state as it was (40_fetch_dispatch.md R126). -/
theorem State.unchangedBut_capture (s : State) (k : Nibble) : UnchangedBut (only [.kwValid, .kwKey]) s (s.capture k) where
  v _ _ := rfl
  i _ := rfl
  pc _ := rfl
  stk _ _ _ := rfl
  sp _ := rfl
  mem _ _ := rfl
  fb _ := rfl
  dt _ := rfl
  st _ := rfl
  key _ _ := rfl
  kwWait _ := rfl
  kwValid h := absurd List.mem_cons_self h
  kwKey h := absurd (List.mem_cons_of_mem _ List.mem_cons_self) h
  latch _ := ⟨rfl, rfl, rfl, rfl⟩
  draws _ := rfl

theorem State.unchangedBut_setKey_capture (s : State) (k : Nibble) (d : Bool) :
    UnchangedBut (only [.key k, .kwValid, .kwKey]) s ((s.setKey k d).capture k) :=
  ((s.unchangedBut_setKey k d).only_of_mem List.mem_cons_self).trans
    (((s.setKey k d).unchangedBut_capture k).mono fun _ => List.mem_cons_of_mem _)

/-! ### The value of a written key -/

@[simp] theorem State.keyDown_setKey_same (s : State) (k : Nibble) (d : Bool) : (s.setKey k d).keyDown k = d :=
  (s.keyDown_setKey k k d).trans (if_pos rfl)

/-- A key written with the value it has is no change. -/
theorem State.setKey_eq_self {s : State} {k : Nibble} {d : Bool} (h : s.keyDown k = d) : s.setKey k d = s := by
  subst h
  exact congrArg (fun ks => { s with keys := ks }) (Vector.set_getElem_self k.isLt)

/-! ### The cases of a press (46_input.md R256) -/

section
variable {s : State} {k : Nibble}

/-- A press of a key that is down is no edge. -/
theorem press_of_down (h : s.keyDown k = true) : press k s = s := if_pos h

/-- An edge while an FX0A waits with nothing captured. -/
theorem press_of_waiting (h : s.keyDown k = false) (hwait : s.kwWait = true) (hvalid : s.kwValid = false) :
    press k s = (s.setKey k true).capture k := by
  simp [press, h, hwait, hvalid]

/-- An edge in the other two latch states: no FX0A waits, or one has its key. -/
theorem press_of_not_waiting (h : s.keyDown k = false) (hlatch : s.kwWait = false ∨ s.kwValid = true) :
    press k s = s.setKey k true := by
  rcases hlatch with hwait | hvalid
  · simp [press, h, hwait]
  · simp [press, h, hvalid]

end

/-- Every press leaves the key down: it was down, or the edge sets it, captured or not. -/
theorem keyDown_press_same (k : Nibble) (s : State) : (press k s).keyDown k = true := by
  unfold press
  split
  next hdown => exact hdown
  next =>
    split
    · exact ((s.setKey k true).capture_keyDown k k).trans (s.keyDown_setKey_same k true)
    · exact s.keyDown_setKey_same k true

/-! ### The obligations -/

/-- Settles O48: the three cases of a press, by the key and the arbiter's latch. -/
theorem pressIsEdgeTriggered : Obligations.PressIsEdgeTriggered := by
  unfold Obligations.PressIsEdgeTriggered
  intro k s
  refine ⟨press k s, rfl, press_of_down, fun hup => ⟨keyDown_press_same k s, fun hwait hvalid => ?_, fun hlatch => ?_⟩⟩
  · rw [press_of_waiting hup hwait hvalid]
    exact ⟨rfl, rfl, s.unchangedBut_setKey_capture k true⟩
  · rw [press_of_not_waiting hup hlatch]
    exact s.unchangedBut_setKey k true

/-- Settles O49: a release is the one write of its key. -/
theorem releaseClearsKey : Obligations.ReleaseClearsKey := by
  unfold Obligations.ReleaseClearsKey
  intro k s
  exact ⟨s.setKey k false, rfl, s.keyDown_setKey_same k false, s.unchangedBut_setKey k false, State.setKey_eq_self⟩

end Sys2Proof.Machine
end

section
/-! PROOFS. The host interface (47_host_interface.md): what `Load` answers in its two cases, what the two reads show, and
which events leave the frame buffer alone. -/

namespace Sys2Proof.Machine

/-! ### Load (47_host_interface.md R270, R271) -/

section
variable {rom : List Byte} {s : State}

/-- A `Load` that does not fit is answered with the error and no change. -/
theorem applyEvent_load_of_too_long (h : romMax < rom.length) :
    applyEvent (.load rom) s = .next (s, .error .romTooLarge) := by
  rcases load?_cases rom s with ⟨_, hfits, -, -⟩ | ⟨-, hload⟩
  · exact absurd h (Nat.not_lt.mpr hfits)
  · rw [applyEvent, hload]

/-- A `Load` that fits is accepted: its bytes are written from `PROG_BASE` on, and the arbiter is disarmed. -/
theorem applyEvent_load_of_fits (h : rom.length ≤ romMax) :
    ∃ m, s.mem.writeBytes? Config.progBase rom = some m ∧
      applyEvent (.load rom) s = .next ((s.setMem m).disarm, .loaded) := by
  rcases load?_cases rom s with ⟨m, -, hwrite, hload⟩ | ⟨hlong, -⟩
  · exact ⟨m, hwrite, by rw [applyEvent, hload]⟩
  · exact absurd hlong (Nat.not_lt.mpr h)

end

/-! ### The two reads (47_host_interface.md R276, R278) -/

theorem readDisplay_length (s : State) : (readDisplay s).length = 32 := by simp [readDisplay]

theorem length_of_mem_readDisplay {s : State} {row : List Bool} (h : row ∈ readDisplay s) : row.length = 64 := by
  obtain ⟨r, -, rfl⟩ := List.mem_map.mp h
  simp

/-- Bit `c` of row `r` of the display read is the pixel at row `r`, column `c`. -/
theorem readDisplay_getElem? (s : State) {r c : Nat} (hr : r < 32) (hc : c < 64) :
    ((readDisplay s)[r]?.bind fun row => row[c]?) = some (s.fb.pixel r c) := by
  simp [readDisplay, hr, hc]

theorem readRegisters_length (s : State) : (readRegisters s).length = 16 := Vector.length_toList

theorem readRegisters_getElem? (s : State) (r : Nibble) : (readRegisters s)[r.toNat]? = some (s.getV r) := by
  have hr : r.toNat < 16 := r.isLt
  simp [readRegisters, State.getV, hr]

/-! ### The events that leave the frame buffer alone -/

theorem press_fb (k : Nibble) (s : State) : (press k s).fb = s.fb := by
  unfold press
  split
  · rfl
  · split <;> rfl

/-- An accepted load writes memory and the arbiter's latch, and a rejected one nothing. -/
theorem fb_of_applyEvent_load {rom : List Byte} {s t : State} {r : Response}
    (h : applyEvent (.load rom) s = .next (t, r)) : t.fb = s.fb := by
  rcases Nat.lt_or_ge romMax rom.length with hlong | hfits
  · rw [applyEvent_load_of_too_long hlong] at h
    cases h
    rfl
  · obtain ⟨m, -, hload⟩ := applyEvent_load_of_fits (s := s) hfits
    rw [hload] at h
    cases h
    rfl

/-- No event but `Step` and `Reset` changes a pixel. -/
theorem fb_of_applyEvent {e : Event} {s t : State} {r : Response} (hstep : e ≠ .step) (hreset : e ≠ .reset)
    (h : applyEvent e s = .next (t, r)) : t.fb = s.fb := by
  cases e with
  | reset => exact absurd rfl hreset
  | step => exact absurd rfl hstep
  | load rom => exact fb_of_applyEvent_load h
  | press k =>
    cases h
    exact press_fb k s
  | tick | release k | readDisplay | readRegisters =>
    cases h
    rfl

/-! ### The obligations -/

/-- Settles O52: a ROM longer than `ROM_MAX` is rejected, and the write of one of exactly `ROM_MAX` bytes covers 0x200..0xFFF. -/
theorem oversizedLoadRejected : Obligations.OversizedLoadRejected := by
  unfold Obligations.OversizedLoadRejected
  refine ⟨fun rom s hlong => applyEvent_load_of_too_long hlong, fun rom s hwf hlen => ?_⟩
  obtain ⟨m, hwrite, hload⟩ := applyEvent_load_of_fits (s := s) (Nat.le_of_eq hlen)
  refine ⟨_, hload, fun a hlo hhi => ?_⟩
  have hrange : Config.progBase ≤ a ∧ a < Config.progBase + rom.length := by
    simp only [Config.progBase]
    omega
  calc m.read? a
    _ = if Config.progBase ≤ a ∧ a < Config.progBase + rom.length then rom[a - Config.progBase]? else s.mem.read? a :=
      Memory.read?_writeBytes? hwf hwrite a
    _ = rom[a - 0x200]? := if_pos hrange

/-- Settles O54: the display read shows the frame buffer pixel by pixel, and only `Step` and `Reset` can change it. -/
theorem readDisplayShowsFrame : Obligations.ReadDisplayShowsFrame := by
  unfold Obligations.ReadDisplayShowsFrame
  exact ⟨fun s => ⟨readDisplay s, rfl, readDisplay_length s, fun _ => length_of_mem_readDisplay,
    fun _ _ => readDisplay_getElem? s⟩, fun _ _ _ _ => fb_of_applyEvent⟩

/-- Settles O55: the register read lists the sixteen V registers in index order. -/
theorem readRegistersShowsV : Obligations.ReadRegistersShowsV := by
  unfold Obligations.ReadRegistersShowsV
  exact fun s => ⟨readRegisters s, rfl, readRegisters_length s, readRegisters_getElem? s⟩

end Sys2Proof.Machine
end

section
/-! PROOFS. The encodings (30_encoding.md): the decoder undoes the encoder, a word that decodes is laid out from its own
fields, and the decoder agrees with the mask and match table. -/

namespace Sys2Proof

/-! ### The decoder undoes the encoder -/

/-- The decoder reads back the fields that the encoder laid out, family by family (30_encoding.md R93, R95). -/
theorem decode_encode (i : Instr) : decode (encode i) = .ok i := by
  cases i with
  | cls | ret => rfl
  | jp _ | call _ | ldI _ | jpV0 _ => simp [encode, decode]
  | seImm _ _ | sneImm _ _ | ldImm _ _ | addImm _ _ | rnd _ _ => simp [encode, decode]
  | seReg _ _ | sneReg _ _ | drw _ _ _ => simp [encode, decode]
  | ldReg _ _ | orReg _ _ | andReg _ _ | xorReg _ _ | addReg _ _ | subReg _ _ | shr _ _ | subnReg _ _ | shl _ _ =>
    simp [encode, decode, decodeAlu]
  | skp _ | sknp _ => simp [encode, decode, decodeKey]
  | ldVxDt _ | ldVxK _ | ldDtVx _ | ldStVx _ | addI _ | ldF _ | ldB _ | ldMemVx _ | ldVxMem _ =>
    simp [encode, decode, decodeMisc]

/-- Settles O1: the decoder reads back every field of every format. -/
theorem decodeOfEncode : Obligations.DecodeOfEncode := by
  unfold Obligations.DecodeOfEncode
  exact decode_encode

/-! ### A word with known fixed fields is laid out from the others -/

section
variable {op : Word} {f n : Nibble} {kk : Byte} {i : Instr}

theorem formatNNN_of_family (hf : (fieldFamily op).toNat = f.toNat) : formatNNN f (fieldNNN op) = op := by
  obtain rfl := BitVec.eq_of_toNat_eq hf
  exact formatNNN_fields op

theorem formatXNN_of_family (hf : (fieldFamily op).toNat = f.toNat) : formatXNN f (fieldX op) (fieldNN op) = op := by
  obtain rfl := BitVec.eq_of_toNat_eq hf
  exact formatXNN_fields op

theorem formatXNN_of_family_byte (hf : (fieldFamily op).toNat = f.toNat) (hk : (fieldNN op).toNat = kk.toNat) :
    formatXNN f (fieldX op) kk = op := by
  obtain rfl := BitVec.eq_of_toNat_eq hk
  exact formatXNN_of_family hf

theorem formatXYN_of_family (hf : (fieldFamily op).toNat = f.toNat) :
    formatXYN f (fieldX op) (fieldY op) (fieldN op) = op := by
  obtain rfl := BitVec.eq_of_toNat_eq hf
  exact formatXYN_fields op

theorem formatXYN_of_family_nibble (hf : (fieldFamily op).toNat = f.toNat) (hn : (fieldN op).toNat = n.toNat) :
    formatXYN f (fieldX op) (fieldY op) n = op := by
  obtain rfl := BitVec.eq_of_toNat_eq hn
  exact formatXYN_of_family hf

/-! ### A word that decodes is the word of its instruction -/

theorem encode_of_decodeAlu (hf : (fieldFamily op).toNat = 0x8) (h : decodeAlu op = .ok i) : encode i = op := by
  unfold decodeAlu at h
  split at h <;> cases h
  all_goals next hn => exact formatXYN_of_family_nibble hf hn

theorem encode_of_decodeKey (hf : (fieldFamily op).toNat = 0xE) (h : decodeKey op = .ok i) : encode i = op := by
  unfold decodeKey at h
  split at h <;> cases h
  all_goals next hk => exact formatXNN_of_family_byte hf hk

theorem encode_of_decodeMisc (hf : (fieldFamily op).toNat = 0xF) (h : decodeMisc op = .ok i) : encode i = op := by
  unfold decodeMisc at h
  split at h <;> cases h
  all_goals next hk => exact formatXNN_of_family_byte hf hk

/-- Each family's fixed fields are the ones its format lays out, the strict zero of families 5 and 9 included. -/
theorem encode_of_decode (h : decode op = .ok i) : encode i = op := by
  unfold decode at h
  split at h
  case h_1 =>
    split at h
    next hop => cases h; exact hop.symm
    next =>
      split at h
      next hop => cases h; exact hop.symm
      next => cases h
  case h_2 hf | h_3 hf | h_11 hf | h_12 hf => cases h; exact formatNNN_of_family hf
  case h_4 hf | h_5 hf | h_7 hf | h_8 hf | h_13 hf => cases h; exact formatXNN_of_family hf
  case h_6 hf | h_10 hf =>
    split at h
    next hn => cases h; exact formatXYN_of_family_nibble hf (congrArg BitVec.toNat hn)
    next => cases h
  case h_9 hf => exact encode_of_decodeAlu hf h
  case h_14 hf => cases h; exact formatXYN_of_family hf
  case h_15 hf => exact encode_of_decodeKey hf h
  case h_16 hf => exact encode_of_decodeMisc hf h
  case h_17 => cases h

/-- Every refusal of the decoder carries the refused word (30_encoding.md R95). -/
theorem eq_invalidInstruction_of_decode {e : DecodeError} (h : decode op = .error e) : e = .invalidInstruction op := by
  unfold decode decodeAlu decodeKey decodeMisc at h
  repeat' split at h
  all_goals cases h
  all_goals rfl

end

/-- Settles O2: each family's fixed fields are the ones its format lays out. -/
theorem encodeOfDecode : Obligations.EncodeOfDecode := by
  unfold Obligations.EncodeOfDecode
  intro op i
  exact encode_of_decode

end Sys2Proof
end

section
/-! PROOFS. The opcode map (30_encoding.md R100): a word that decodes selects the row of its instruction and no other, and a
word that selects a row decodes. -/

namespace Sys2Proof

section
variable {op : Word} {r r' : Row} {i : Instr}

/-- The per-instruction family of Laws/PerInstr, as one statement. -/
theorem row_selects_encode : ∀ i : Instr, i.row.selects (encode i) = true
  | .cls => Laws.RowMatch.cls
  | .ret => Laws.RowMatch.ret
  | .jp a => Laws.RowMatch.jp a
  | .call a => Laws.RowMatch.call a
  | .seImm a b => Laws.RowMatch.seImm a b
  | .sneImm a b => Laws.RowMatch.sneImm a b
  | .seReg a b => Laws.RowMatch.seReg a b
  | .ldImm a b => Laws.RowMatch.ldImm a b
  | .addImm a b => Laws.RowMatch.addImm a b
  | .ldReg a b => Laws.RowMatch.ldReg a b
  | .orReg a b => Laws.RowMatch.orReg a b
  | .andReg a b => Laws.RowMatch.andReg a b
  | .xorReg a b => Laws.RowMatch.xorReg a b
  | .addReg a b => Laws.RowMatch.addReg a b
  | .subReg a b => Laws.RowMatch.subReg a b
  | .shr a b => Laws.RowMatch.shr a b
  | .subnReg a b => Laws.RowMatch.subnReg a b
  | .shl a b => Laws.RowMatch.shl a b
  | .sneReg a b => Laws.RowMatch.sneReg a b
  | .ldI a => Laws.RowMatch.ldI a
  | .jpV0 a => Laws.RowMatch.jpV0 a
  | .rnd a b => Laws.RowMatch.rnd a b
  | .drw a b c => Laws.RowMatch.drw a b c
  | .skp a => Laws.RowMatch.skp a
  | .sknp a => Laws.RowMatch.sknp a
  | .ldVxDt a => Laws.RowMatch.ldVxDt a
  | .ldVxK a => Laws.RowMatch.ldVxK a
  | .ldDtVx a => Laws.RowMatch.ldDtVx a
  | .ldStVx a => Laws.RowMatch.ldStVx a
  | .addI a => Laws.RowMatch.addI a
  | .ldF a => Laws.RowMatch.ldF a
  | .ldB a => Laws.RowMatch.ldB a
  | .ldMemVx a => Laws.RowMatch.ldMemVx a
  | .ldVxMem a => Laws.RowMatch.ldVxMem a

theorem row_mem_opcodeTable (i : Instr) : i.row ∈ opcodeTable := by
  have helem : opcodeTable.elem i.row = true := by cases i <;> rfl
  exact List.mem_of_elem_eq_true helem

/-- The pattern of each row is itself a word that decodes, to an instruction of that row. -/
theorem row_of_decode_pattern : ∀ r ∈ opcodeTable, (decode r.pattern).toOption.map Instr.row = some r := by decide

theorem exists_row_eq (hr : r ∈ opcodeTable) : ∃ i : Instr, i.row = r := by
  obtain ⟨i, -, hi⟩ := Option.map_eq_some_iff.mp (row_of_decode_pattern r hr)
  exact ⟨i, hi⟩

/-! ### No word selects two rows -/

theorem Row.selects_iff : r.selects op = true ↔ op &&& r.mask = r.pattern := beq_iff_eq

/-- Two rows of the map differ in a bit that both fix. -/
theorem rows_disjoint :
    ∀ r ∈ opcodeTable, ∀ r' ∈ opcodeTable, r.pattern &&& r'.mask = r'.pattern &&& r.mask → r = r' := by decide

/-- A word that selects two rows has the bits of both where both fix them, so the rows are one. -/
theorem row_unique (hr : r ∈ opcodeTable) (hr' : r' ∈ opcodeTable) (h : r.selects op = true)
    (h' : r'.selects op = true) : r = r' := by
  refine rows_disjoint r hr r' hr' ?_
  rw [← Row.selects_iff.mp h, ← Row.selects_iff.mp h', BitVec.and_assoc, BitVec.and_assoc, BitVec.and_comm r.mask]

theorem row_selects_of_decode (h : decode op = .ok i) : i.row.selects op = true :=
  encode_of_decode h ▸ row_selects_encode i

/-! ### A word that selects a row decodes -/

/-- A field that the mask fixes whole is the pattern's. -/
theorem extractLsb'_of_selects {start len : Nat} (h : r.selects op = true)
    (hm : r.mask.extractLsb' start len = BitVec.allOnes len) :
    op.extractLsb' start len = r.pattern.extractLsb' start len := by
  rw [← Row.selects_iff.mp h, BitVec.extractLsb'_and, hm, BitVec.and_allOnes]

/-- Every row of the map fixes the family. -/
theorem fieldFamily_mask : ∀ r ∈ opcodeTable, fieldFamily r.mask = 0xF#4 := by decide

theorem fieldFamily_of_row_selects (h : i.row.selects op = true) : fieldFamily op = fieldFamily i.row.pattern :=
  extractLsb'_of_selects h (fieldFamily_mask _ (row_mem_opcodeTable i))

theorem fieldN_of_selects (h : r.selects op = true) (hm : r.mask = 0xF00F#16) : fieldN op = fieldN r.pattern :=
  extractLsb'_of_selects h (by rw [hm]; decide)

theorem fieldNN_of_selects (h : r.selects op = true) (hm : r.mask = 0xF0FF#16) : fieldNN op = fieldNN r.pattern :=
  extractLsb'_of_selects h (by rw [hm]; decide)

theorem eq_pattern_of_selects (h : r.selects op = true) (hm : r.mask = 0xFFFF#16) : op = r.pattern := by
  rw [← Row.selects_iff.mp h, hm]
  exact (BitVec.and_allOnes (w := 16)).symm

/-- The decoder reads no field but those the row fixes when it chooses the instruction (30_encoding.md R95, R100). -/
theorem exists_decode_of_row_selects (h : i.row.selects op = true) : ∃ j, decode op = .ok j := by
  have hf := fieldFamily_of_row_selects h
  cases i with
  | cls | ret =>
    obtain rfl := eq_pattern_of_selects h rfl
    exact ⟨_, rfl⟩
  | jp _ | call _ | ldI _ | jpV0 _ | seImm _ _ | sneImm _ _ | ldImm _ _ | addImm _ _ | rnd _ _ | drw _ _ _ =>
    simp only [decode, hf, Instr.row]
    exact ⟨_, rfl⟩
  | seReg _ _ | sneReg _ _ =>
    simp only [decode, hf, fieldN_of_selects h rfl, Instr.row]
    exact ⟨_, rfl⟩
  | ldReg _ _ | orReg _ _ | andReg _ _ | xorReg _ _ | addReg _ _ | subReg _ _ | shr _ _ | subnReg _ _ | shl _ _ =>
    simp only [decode, decodeAlu, hf, fieldN_of_selects h rfl, Instr.row]
    exact ⟨_, rfl⟩
  | skp _ | sknp _ =>
    simp only [decode, decodeKey, hf, fieldNN_of_selects h rfl, Instr.row]
    exact ⟨_, rfl⟩
  | ldVxDt _ | ldVxK _ | ldDtVx _ | ldStVx _ | addI _ | ldF _ | ldB _ | ldMemVx _ | ldVxMem _ =>
    simp only [decode, decodeMisc, hf, fieldNN_of_selects h rfl, Instr.row]
    exact ⟨_, rfl⟩

theorem exists_decode_of_selects (hr : r ∈ opcodeTable) (h : r.selects op = true) : ∃ i, decode op = .ok i := by
  obtain ⟨i, rfl⟩ := exists_row_eq hr
  exact exists_decode_of_row_selects h

end

/-! ### The obligations -/

/-- Settles O3: rows are disjoint, the decoded instruction's row is selected, and every selected row decodes. -/
theorem decodeFollowsOpcodeMap : Obligations.DecodeFollowsOpcodeMap := by
  unfold Obligations.DecodeFollowsOpcodeMap
  refine fun op => ⟨fun i hdec => ⟨row_mem_opcodeTable i, fun r hr => ⟨fun hsel => ?_, ?_⟩⟩,
    fun e herr => ⟨?_, fun r hr => ?_⟩⟩
  · exact row_unique hr (row_mem_opcodeTable i) hsel (row_selects_of_decode hdec)
  · rintro rfl
    exact row_selects_of_decode hdec
  · exact eq_invalidInstruction_of_decode herr
  · rw [← Bool.not_eq_true]
    intro hsel
    obtain ⟨i, hdec⟩ := exists_decode_of_selects hr hsel
    rw [herr] at hdec
    cases hdec

/-- Settles O4: ten closed evaluations of the decoder. -/
theorem sampleWordsDecode : Obligations.SampleWordsDecode := by
  unfold Obligations.SampleWordsDecode
  decide

/-- Settles O5: neither meaning reads its Y. -/
theorem shiftIgnoresY : Obligations.ShiftIgnoresY := by
  unfold Obligations.ShiftIgnoresY
  exact fun x y y' s => ⟨rfl, rfl⟩

end Sys2Proof
end

section
/-! PROOFS. Execution and faults (60_exceptions.md): what each instruction that can fault does in its two cases, the one list
of the faults an instruction can take, and the steps that take one. -/

namespace Sys2Proof.Machine

/-! ### The two cases of each instruction that can fault -/

section
variable {s u : State} {w : Word} {k : Nibble} {bs : List Byte}

theorem execRet_of_pop (h : s.pop? = some (w, u)) : execRet s = .next (u.setPc w) := by rw [execRet, h]

theorem execRet_of_empty (h : s.pop? = none) : execRet s = .next (s.latch .stackUnderflow (encode .ret)) := by
  rw [execRet, h, raise_eq]

theorem execCall_of_push (nnn : Addr12) (h : s.push? s.npc = some u) :
    execCall nnn s = .next (u.setPc (zextAddr nnn)) := by rw [execCall, h]

theorem execCall_of_full (nnn : Addr12) (h : s.push? s.npc = none) :
    execCall nnn s = .next (s.latch .stackOverflow (encode (.call nnn))) := by rw [execCall, h, raise_eq]

theorem execDrw_of_bytes {x y n : Nibble} (h : s.bytesAtI? n.toNat = some bs) :
    execDrw x y n s = .next ((s.setFb (draw (s.getV x) (s.getV y) bs s.fb).1).setV vf
      (flagByte (draw (s.getV x) (s.getV y) bs s.fb).2)).advance := by rw [execDrw, h]

theorem execDrw_of_beyond {x y n : Nibble} (h : s.bytesAtI? n.toNat = none) :
    execDrw x y n s = .next (s.latch .outOfBounds (encode (.drw x y n))) := by rw [execDrw, h, raise_eq]

variable {x : Nibble}

theorem execSkp_of_key (h : keyIndex? (s.getV x) = some k) : execSkp x s = .next (s.skipIf (s.keyDown k)) := by
  rw [execSkp, h]

theorem execSkp_of_beyond (h : keyIndex? (s.getV x) = none) :
    execSkp x s = .next (s.latch .outOfBounds (encode (.skp x))) := by rw [execSkp, h, raise_eq]

theorem execSknp_of_key (h : keyIndex? (s.getV x) = some k) : execSknp x s = .next (s.skipIf (!s.keyDown k)) := by
  rw [execSknp, h]

theorem execSknp_of_beyond (h : keyIndex? (s.getV x) = none) :
    execSknp x s = .next (s.latch .outOfBounds (encode (.sknp x))) := by rw [execSknp, h, raise_eq]

theorem execLdB_of_store (h : s.storeAtI? (bcdDigits (s.getV x)) = some u) : execLdB x s = .next u.advance := by
  rw [execLdB, h]

theorem execLdB_of_beyond (h : s.storeAtI? (bcdDigits (s.getV x)) = none) :
    execLdB x s = .next (s.latch .outOfBounds (encode (.ldB x))) := by rw [execLdB, h, raise_eq]

theorem execLdMemVx_of_store (h : s.storeAtI? (s.firstV x) = some u) : execLdMemVx x s = .next u.advance := by
  rw [execLdMemVx, h]

theorem execLdMemVx_of_beyond (h : s.storeAtI? (s.firstV x) = none) :
    execLdMemVx x s = .next (s.latch .outOfBounds (encode (.ldMemVx x))) := by rw [execLdMemVx, h, raise_eq]

theorem execLdVxMem_of_bytes (h : s.bytesAtI? (x.toNat + 1) = some bs) :
    execLdVxMem x s = .next (s.loadV bs).advance := by rw [execLdVxMem, h]

theorem execLdVxMem_of_beyond (h : s.bytesAtI? (x.toNat + 1) = none) :
    execLdVxMem x s = .next (s.latch .outOfBounds (encode (.ldVxMem x))) := by rw [execLdVxMem, h, raise_eq]

end

theorem bcdDigits_ne_nil (b : Byte) : bcdDigits b ≠ [] := List.cons_ne_nil _ _

theorem State.firstV_ne_nil (s : State) (x : Nibble) : s.firstV x ≠ [] :=
  List.ne_nil_of_length_pos (by rw [State.length_firstV]; exact Nat.succ_pos _)

/-- The three cases of an FX0A (46_input.md R252). -/
theorem execLdVxK_cases (x : Nibble) (s : State) :
    (s.kwWait = false ∧ execLdVxK x s = .next s.arm) ∨
    (s.kwWait = true ∧ s.kwValid = false ∧ execLdVxK x s = .next s) ∨
    (s.kwWait = true ∧ s.kwValid = true ∧
      execLdVxK x s = .next ((s.setV x (zextNibble s.kwKey)).disarm).advance) := by
  unfold execLdVxK
  cases hwait : s.kwWait
  · exact .inl ⟨rfl, rfl⟩
  · cases hvalid : s.kwValid
    · exact .inr (.inl ⟨rfl, rfl, rfl⟩)
    · exact .inr (.inr ⟨rfl, rfl, rfl⟩)

/-! ### The faults an instruction can take -/

/-- Instruction `i` raises `k` in state `s`: the instructions that can fault, each with its one condition and its one kind
(60_exceptions.md R293 to R297). -/
inductive CanFault (s : State) : Instr → ErrorKind → Prop where
  | ret (h : s.sp.val = 0) : CanFault s .ret .stackUnderflow
  | call (nnn : Addr12) (h : s.sp.val = Config.stackDepth) : CanFault s (.call nnn) .stackOverflow
  | drw (x y n : Nibble) (hrows : 0 < n.toNat) (h : memSize < s.i.toNat + n.toNat) : CanFault s (.drw x y n) .outOfBounds
  | ldB (x : Nibble) (h : memSize < s.i.toNat + 3) : CanFault s (.ldB x) .outOfBounds
  | ldMemVx (x : Nibble) (h : memSize < s.i.toNat + (x.toNat + 1)) : CanFault s (.ldMemVx x) .outOfBounds
  | ldVxMem (x : Nibble) (h : memSize < s.i.toNat + (x.toNat + 1)) : CanFault s (.ldVxMem x) .outOfBounds
  | skp (x : Nibble) (h : 15 < (s.getV x).toNat) : CanFault s (.skp x) .outOfBounds
  | sknp (x : Nibble) (h : 15 < (s.getV x).toNat) : CanFault s (.sknp x) .outOfBounds

/-! ### Everything an instruction can do -/

/-- The instructions whose effect is chosen among cases: those that can fault, and FX0A. -/
def branches : Instr → Bool
  | .ret | .call _ | .drw _ _ _ | .skp _ | .sknp _ | .ldVxK _ | .ldB _ | .ldMemVx _ | .ldVxMem _ => true
  | .cls | .jp _ | .seImm _ _ | .sneImm _ _ | .seReg _ _ | .sneReg _ _ | .ldImm _ _ | .addImm _ _ | .ldReg _ _ => false
  | .orReg _ _ | .andReg _ _ | .xorReg _ _ | .addReg _ _ | .subReg _ _ | .shr _ _ | .subnReg _ _ | .shl _ _ => false
  | .ldI _ | .jpV0 _ | .rnd _ _ | .ldVxDt _ | .ldDtVx _ | .ldStVx _ | .addI _ | .ldF _ => false

/-- Everything an instruction can do in state `s`, with the state it leaves: its one effect, where it has but one; the fault
it takes; or the case it completes in. -/
inductive Effect (s : State) : Instr → State → Prop where
  | straight {i : Instr} {t : State} (hi : branches i = false) (h : exec i s = .next t) : Effect s i t
  | fault {i : Instr} {k : ErrorKind} (h : CanFault s i k) : Effect s i (s.latch k (encode i))
  | ret (h : 0 < s.sp.val) : Effect s .ret
      (State.setPc { s with sp := ⟨s.sp.val - 1, by have := s.sp.isLt; omega⟩ }
        (s.stk[s.sp.val - 1]'(by have := s.sp.isLt; omega)))
  | call (nnn : Addr12) (h : s.sp.val < Config.stackDepth) : Effect s (.call nnn)
      (State.setPc { s with stk := s.stk.set s.sp.val s.npc h, sp := ⟨s.sp.val + 1, Nat.succ_lt_succ h⟩ } (zextAddr nnn))
  | drw (x y n : Nibble) {sprite : List Byte} (h : s.bytesAtI? n.toNat = some sprite) : Effect s (.drw x y n)
      ((s.setFb (draw (s.getV x) (s.getV y) sprite s.fb).1).setV vf
        (flagByte (draw (s.getV x) (s.getV y) sprite s.fb).2)).advance
  | skp (x : Nibble) {k : Nibble} (h : k.toNat = (s.getV x).toNat) : Effect s (.skp x) (s.skipIf (s.keyDown k))
  | sknp (x : Nibble) {k : Nibble} (h : k.toNat = (s.getV x).toNat) : Effect s (.sknp x) (s.skipIf (!s.keyDown k))
  | arm (x : Nibble) (hwait : s.kwWait = false) : Effect s (.ldVxK x) s.arm
  | wait (x : Nibble) (hwait : s.kwWait = true) (hvalid : s.kwValid = false) : Effect s (.ldVxK x) s
  | deliver (x : Nibble) (hwait : s.kwWait = true) (hvalid : s.kwValid = true) : Effect s (.ldVxK x)
      ((s.setV x (zextNibble s.kwKey)).disarm).advance
  | ldB (x : Nibble) {m : Memory} (h : s.mem.writeBytes? s.i.toNat (bcdDigits (s.getV x)) = some m) : Effect s (.ldB x)
      (s.setMem m).advance
  | ldMemVx (x : Nibble) {m : Memory} (h : s.mem.writeBytes? s.i.toNat (s.firstV x) = some m) : Effect s (.ldMemVx x)
      (s.setMem m).advance
  | ldVxMem (x : Nibble) {bs : List Byte} (h : s.bytesAtI? (x.toNat + 1) = some bs) : Effect s (.ldVxMem x)
      (s.loadV bs).advance

/-- Every instruction answers a next state, and that by one of its effects. -/
theorem exec_effect (i : Instr) (s : State) : ∃ t, exec i s = .next t ∧ Effect s i t := by
  cases i with
  | cls | jp _ | seImm _ _ | sneImm _ _ | seReg _ _ | sneReg _ _ | ldI _ | jpV0 _ | ldImm _ _ | addImm _ _ | ldReg _ _
  | orReg _ _ | andReg _ _ | xorReg _ _ | addReg _ _ | subReg _ _ | shr _ _ | subnReg _ _ | shl _ _ | rnd _ _ | ldVxDt _
  | ldDtVx _ | ldStVx _ | addI _ | ldF _ => exact ⟨_, rfl, .straight rfl rfl⟩
  | ldVxK x =>
    obtain ⟨hwait, h⟩ | ⟨hwait, hvalid, h⟩ | ⟨hwait, hvalid, h⟩ := execLdVxK_cases x s
    · exact ⟨_, h, .arm x hwait⟩
    · exact ⟨_, h, .wait x hwait hvalid⟩
    · exact ⟨_, h, .deliver x hwait hvalid⟩
  | ret =>
    obtain ⟨hpos, h⟩ | ⟨hsp, h⟩ := s.pop?_cases
    · exact ⟨_, execRet_of_pop h, .ret hpos⟩
    · exact ⟨_, execRet_of_empty h, .fault (.ret hsp)⟩
  | call nnn =>
    obtain ⟨hlt, h⟩ | ⟨hsp, h⟩ := s.push?_cases s.npc
    · exact ⟨_, execCall_of_push nnn h, .call nnn hlt⟩
    · exact ⟨_, execCall_of_full nnn h, .fault (.call nnn hsp)⟩
  | drw x y n =>
    obtain ⟨-, h⟩ | ⟨hrows, hi, h⟩ := s.bytesAtI?_cases n.toNat
    · exact ⟨_, execDrw_of_bytes h, .drw x y n h⟩
    · exact ⟨_, execDrw_of_beyond h, .fault (.drw x y n hrows hi)⟩
  | skp x =>
    obtain ⟨_, hk, h⟩ | ⟨hk, h⟩ := keyIndex?_cases (s.getV x)
    · exact ⟨_, execSkp_of_key h, .skp x hk⟩
    · exact ⟨_, execSkp_of_beyond h, .fault (.skp x hk)⟩
  | sknp x =>
    obtain ⟨_, hk, h⟩ | ⟨hk, h⟩ := keyIndex?_cases (s.getV x)
    · exact ⟨_, execSknp_of_key h, .sknp x hk⟩
    · exact ⟨_, execSknp_of_beyond h, .fault (.sknp x hk)⟩
  | ldB x =>
    obtain ⟨_, -, hm, h⟩ | ⟨hi, h⟩ := s.storeAtI?_cases (bcdDigits_ne_nil (s.getV x))
    · exact ⟨_, execLdB_of_store h, .ldB x hm⟩
    · exact ⟨_, execLdB_of_beyond h, .fault (.ldB x hi)⟩
  | ldMemVx x =>
    obtain ⟨_, -, hm, h⟩ | ⟨hi, h⟩ := s.storeAtI?_cases (s.firstV_ne_nil x)
    · exact ⟨_, execLdMemVx_of_store h, .ldMemVx x hm⟩
    · exact ⟨_, execLdMemVx_of_beyond h, .fault (.ldMemVx x (by rwa [State.length_firstV] at hi))⟩
  | ldVxMem x =>
    obtain ⟨-, h⟩ | ⟨-, hi, h⟩ := s.bytesAtI?_cases (x.toNat + 1)
    · exact ⟨_, execLdVxMem_of_bytes h, .ldVxMem x h⟩
    · exact ⟨_, execLdVxMem_of_beyond h, .fault (.ldVxMem x hi)⟩

theorem effect_of_exec {i : Instr} {s t : State} (h : exec i s = .next t) : Effect s i t := by
  obtain ⟨t', h', heffect⟩ := exec_effect i s
  cases h'.symm.trans h
  exact heffect

/-- The fault latch of `t` is that of `s`. -/
def SameLatch (s t : State) : Prop :=
  t.halt = s.halt ∧ t.faultKind = s.faultKind ∧ t.faultPc = s.faultPc ∧ t.faultOp = s.faultOp

theorem sameLatch_loadV_advance (s : State) (bs : List Byte) : SameLatch s (s.loadV bs).advance := by simp [SameLatch]

theorem sameLatch_of_straight {i : Instr} {s t : State} (hi : branches i = false) (h : exec i s = .next t) :
    SameLatch s t := by
  cases i with
  | ret | call _ | drw _ _ _ | skp _ | sknp _ | ldVxK _ | ldB _ | ldMemVx _ | ldVxMem _ => cases hi
  | cls | jp _ | seImm _ _ | sneImm _ _ | seReg _ _ | sneReg _ _ | ldI _ | jpV0 _ | ldImm _ _ | addImm _ _ | ldReg _ _
  | orReg _ _ | andReg _ _ | xorReg _ _ | addReg _ _ | subReg _ _ | shr _ _ | subnReg _ _ | shl _ _ | rnd _ _ | ldVxDt _
  | ldDtVx _ | ldStVx _ | addI _ | ldF _ => cases h; exact ⟨rfl, rfl, rfl, rfl⟩

/-- An instruction leaves the fault latch alone, or takes one of the faults listed and writes nothing else. -/
theorem Effect.latch_cases {i : Instr} {s t : State} (h : Effect s i t) :
    SameLatch s t ∨ ∃ k, CanFault s i k ∧ t = s.latch k (encode i) := by
  cases h with
  | straight hi h => exact .inl (sameLatch_of_straight hi h)
  | fault h => exact .inr ⟨_, h, rfl⟩
  | ldVxMem x h => exact .inl (sameLatch_loadV_advance s _)
  | ret _ | call _ _ | drw _ _ _ _ | skp _ _ | sknp _ _ | arm _ _ | wait _ _ _ | deliver _ _ _ | ldB _ _ | ldMemVx _ _ =>
    exact .inl ⟨rfl, rfl, rfl, rfl⟩

/-- An instruction that halts a running machine has taken one of the faults listed. -/
theorem exec_halts {i : Instr} {s t : State} (hrun : s.halt = false) (h : exec i s = .next t) (hhalt : t.halt = true) :
    ∃ k, CanFault s i k ∧ t = s.latch k (encode i) := by
  obtain ⟨hsame, -⟩ | hfault := (effect_of_exec h).latch_cases
  · exact absurd (hrun.symm.trans (hsame.symm.trans hhalt)) (by decide)
  · exact hfault

/-! ### The step and the latch -/

/-- Taking a fault writes the latch and nothing else (60_exceptions.md R300). -/
theorem State.unchangedBut_latch (s : State) (k : ErrorKind) (op : Word) :
    UnchangedBut (only [.latch]) s (s.latch k op) where
  v _ _ := rfl
  i _ := rfl
  pc _ := rfl
  stk _ _ _ := rfl
  sp _ := rfl
  mem _ _ := rfl
  fb _ := rfl
  dt _ := rfl
  st _ := rfl
  key _ _ := rfl
  kwWait _ := rfl
  kwValid _ := rfl
  kwKey _ := rfl
  latch h := absurd (List.mem_singleton_self _) h
  draws _ := rfl

theorem State.takesFault_latch (s : State) (k : ErrorKind) (op : Word) : TakesFault k.code op s (s.latch k op) :=
  ⟨rfl, rfl, rfl, rfl, s.unchangedBut_latch k op⟩

section
variable {s t : State} {op : Word}

theorem step_of_halted (hhalt : s.halt = true) : step s = .next s := by simp [step, cycle, hhalt]

theorem step_of_fetch_none (hrun : s.halt = false) (hfetch : s.fetch = none) :
    step s = .next (s.latch .outOfBounds 0x0000#16) := by simp [step, cycle, hrun, hfetch]

theorem step_of_decode_error {e : DecodeError} (hrun : s.halt = false) (hfetch : s.fetch = some op)
    (hdec : decode op = .error e) : step s = .next (s.latch .invalidInstruction op) := by
  simp [step, cycle, hrun, hfetch, hdec]

theorem step_total (s : State) : ∃ t, step s = .next t := by
  obtain ⟨-, h⟩ | ⟨-, -, h⟩ | ⟨op, e, -, -, -, h⟩ | ⟨op, i, -, -, -, h⟩ := step_cases s
  · exact ⟨_, h⟩
  · exact ⟨_, h⟩
  · exact ⟨_, h⟩
  · obtain ⟨t, h', -⟩ := exec_effect i s
    exact ⟨t, h.trans h'⟩

/-- A step that halts a running machine wrote the latch alone, with the word fetched, or 0x0000 when none was: the word an
instruction records, its encoding, is the word it was decoded from. -/
theorem step_halts (hrun : s.halt = false) (h : step s = .next t) (hhalt : t.halt = true) :
    (s.fetch = none ∧ t = s.latch .outOfBounds 0x0000#16) ∨
    (∃ op, s.fetch = some op ∧ t = s.latch .invalidInstruction op) ∨
    (∃ op i k, s.fetch = some op ∧ CanFault s i k ∧ t = s.latch k op) := by
  obtain ⟨hh, -⟩ | ⟨-, hf, h'⟩ | ⟨op, e, -, hf, -, h'⟩ | ⟨op, i, -, hf, hdec, h'⟩ := step_cases s
  · rw [hrun] at hh; cases hh
  · rw [h] at h'; cases h'
    exact .inl ⟨hf, rfl⟩
  · rw [h] at h'; cases h'
    exact .inr (.inl ⟨op, hf, rfl⟩)
  · obtain ⟨k, hk, ht⟩ := exec_halts hrun (h'.symm.trans h) hhalt
    rw [encode_of_decode hdec] at ht
    exact .inr (.inr ⟨op, i, k, hf, hk, ht⟩)

theorem stepResult_of_running (h : t.halt = false) : t.stepResult = .ok := by simp [State.stepResult, h]

theorem stepResult_of_halted (h : t.halt = true) : t.stepResult = .fault t.faultKind t.faultPc t.faultOp := by
  simp [State.stepResult, h]

theorem applyEvent_step (h : step s = .next t) : applyEvent .step s = .next (t, .stepped t.stepResult) := by
  rw [applyEvent, h]

end

theorem CanFault.code_cases {s : State} {i : Instr} {k : ErrorKind} (h : CanFault s i k) :
    k.code = 1#3 ∨ k.code = 2#3 ∨ k.code = 3#3 ∨ k.code = 4#3 := by
  cases h <;> simp [ErrorKind.code]

/-! ### The obligations -/

/-- Settles O10: every arm of the step answers a next state. -/
theorem stepIsTotal : Obligations.StepIsTotal := by
  unfold Obligations.StepIsTotal
  exact step_total

/-- Settles O11: the three ways a step halts each leave the latched state, with the word fetched. -/
theorem faultsArePrecise : Obligations.FaultsArePrecise := by
  unfold Obligations.FaultsArePrecise
  intro s t hrun hstep hhalt
  obtain ⟨hf, rfl⟩ | ⟨op, hf, rfl⟩ | ⟨op, i, k, hf, hk, rfl⟩ := step_halts hrun hstep hhalt
  · exact ⟨4#3, by decide, .inl ⟨hf, s.takesFault_latch _ _⟩⟩
  · exact ⟨1#3, by decide, .inr ⟨op, hf, s.takesFault_latch _ _⟩⟩
  · exact ⟨k.code, hk.code_cases, .inr ⟨op, hf, s.takesFault_latch _ _⟩⟩

/-- Settles O12: the list of the faults an instruction can take, with the kinds as codes. -/
theorem faultCauses : Obligations.FaultCauses := by
  unfold Obligations.FaultCauses
  intro i s t hrun hexec hhalt
  obtain ⟨k, hk, rfl⟩ := exec_halts hrun hexec hhalt
  have hmem : memSize = 4096 := rfl
  cases hk with
  | ret h => exact .inl ⟨rfl, h, rfl⟩
  | call nnn h => exact .inr (.inl ⟨nnn, rfl, h, rfl⟩)
  | drw x y n hrows h => exact .inr (.inr (.inl ⟨x, y, n, rfl, hrows, by omega, rfl⟩))
  | ldB x h => exact .inr (.inr (.inr (.inl ⟨x, rfl, by omega, rfl⟩)))
  | ldMemVx x h => exact .inr (.inr (.inr (.inr (.inl ⟨x, rfl, by omega, rfl⟩))))
  | ldVxMem x h => exact .inr (.inr (.inr (.inr (.inr (.inl ⟨x, rfl, by omega, rfl⟩)))))
  | skp x h => exact .inr (.inr (.inr (.inr (.inr (.inr ⟨x, .inl rfl, h, rfl⟩)))))
  | sknp x h => exact .inr (.inr (.inr (.inr (.inr (.inr ⟨x, .inr rfl, h, rfl⟩)))))

/-- Settles O13: the event passes on the step's state, and its result is read from the latch. -/
theorem stepAnswersResult : Obligations.StepAnswersResult := by
  unfold Obligations.StepAnswersResult
  intro s
  obtain ⟨t, hstep⟩ := step_total s
  exact ⟨t, t.stepResult, hstep, applyEvent_step hstep, stepResult_of_running, stepResult_of_halted⟩

/-- Settles O7: at the limit nothing is fetched, and the step takes the fault; one below it the two bytes are fetched. -/
theorem fetchLimitFaults : Obligations.FetchLimitFaults := by
  unfold Obligations.FetchLimitFaults
  refine ⟨fun s hrun hpc => ?_, fun s hi lo hpc hhi hlo => ?_⟩
  · obtain ⟨hlt, -⟩ | ⟨-, hfetch⟩ := s.fetch_cases
    · exact absurd hlt (Nat.not_lt.mpr hpc)
    · exact ⟨_, step_of_fetch_none hrun hfetch, s.takesFault_latch _ _⟩
  · refine State.fetch_of_read? ?_ ?_ ?_
    · rw [hpc]; decide
    · rwa [hpc]
    · rwa [hpc]

/-- Settles O8: a word decodes exactly when it selects a row; its step then runs the instruction, else takes the fault. -/
theorem decodeOrInvalidInstruction : Obligations.DecodeOrInvalidInstruction := by
  unfold Obligations.DecodeOrInvalidInstruction
  refine fun s op hrun hfetch => ⟨?_, fun hnone => ?_⟩
  · rintro ⟨r, hr, hsel⟩
    obtain ⟨i, hdec⟩ := exists_decode_of_selects hr hsel
    exact ⟨i, hdec, row_selects_of_decode hdec, encode_of_decode hdec, step_of_decode hrun hfetch hdec⟩
  · cases hdec : decode op with
    | error e => exact ⟨_, step_of_decode_error hrun hfetch hdec, s.takesFault_latch _ _⟩
    | ok i =>
      have hsel := row_selects_of_decode hdec
      rw [hnone _ (row_mem_opcodeTable i)] at hsel
      cases hsel

end Sys2Proof.Machine
end

section
/-! PROOFS. Who writes what (10_state.md R20): for each piece of state the instructions that can change it. -/

namespace Sys2Proof.Machine

/-- What an instruction `ins` that leads from `s` to `t` may have changed, piece by piece, the V registers and PC left out
(10_state.md R20). -/
structure OnlyWriters (ins : Instr) (s t : State) : Prop where
  i : t.i ≠ s.i → (∃ nnn, ins = .ldI nnn) ∨ (∃ x, ins = .addI x) ∨ (∃ x, ins = .ldF x)
  stk : t.stk ≠ s.stk → ∃ nnn, ins = .call nnn
  sp : t.sp ≠ s.sp → ins = .ret ∨ ∃ nnn, ins = .call nnn
  mem : t.mem ≠ s.mem → (∃ x, ins = .ldB x) ∨ (∃ x, ins = .ldMemVx x)
  fb : t.fb ≠ s.fb → ins = .cls ∨ ∃ x y n, ins = .drw x y n
  dt : t.dt ≠ s.dt → ∃ x, ins = .ldDtVx x
  st : t.st ≠ s.st → ∃ x, ins = .ldStVx x
  keys : t.keys = s.keys
  kw : t.kwWait ≠ s.kwWait ∨ t.kwValid ≠ s.kwValid → ∃ x, ins = .ldVxK x
  kwKey : t.kwKey = s.kwKey
  latch : t.halt = false → SameLatch s t
  draws : t.draws ≠ s.draws → ∃ x nn, ins = .rnd x nn

theorem onlyWriters_latch (i : Instr) (s : State) (k : ErrorKind) (op : Word) : OnlyWriters i s (s.latch k op) := by
  constructor <;> simp

section
variable {s t : State}

/-- An instruction with one effect writes what its arm names. -/
theorem onlyWriters_of_straight {i : Instr} (hi : branches i = false) (h : exec i s = .next t) : OnlyWriters i s t := by
  cases i with
  | ret | call _ | drw _ _ _ | skp _ | sknp _ | ldVxK _ | ldB _ | ldMemVx _ | ldVxMem _ => cases hi
  | rnd _ _ =>
    cases h
    constructor <;> simp [SameLatch, rndWith]
  | cls | jp _ | seImm _ _ | sneImm _ _ | seReg _ _ | sneReg _ _ | ldI _ | jpV0 _ | ldImm _ _ | addImm _ _ | ldReg _ _
  | orReg _ _ | andReg _ _ | xorReg _ _ | addReg _ _ | subReg _ _ | shr _ _ | subnReg _ _ | shl _ _ | ldVxDt _
  | ldDtVx _ | ldStVx _ | addI _ | ldF _ =>
    cases h
    constructor <;> simp [SameLatch]

/-- Each effect is a few named writes, and a fault's is the latch. -/
theorem Effect.onlyWriters {i : Instr} (h : Effect s i t) : OnlyWriters i s t := by
  cases h with
  | straight hi h => exact onlyWriters_of_straight hi h
  | fault _ => exact onlyWriters_latch ..
  | ret _ | call _ _ | drw _ _ _ _ | skp _ _ | sknp _ _ | arm _ _ | wait _ _ _ | deliver _ _ _ | ldB _ _ | ldMemVx _ _
  | ldVxMem _ _ => constructor <;> simp [SameLatch]

theorem exec_onlyWriters {i : Instr} (h : exec i s = .next t) : OnlyWriters i s t := (effect_of_exec h).onlyWriters

/-- A V register changes only as the destination, as the flag, or in FX65's range (10_state.md R22, R24). -/
theorem exec_getV_writers {i : Instr} {r : Nibble} (h : exec i s = .next t) (hr : t.getV r ≠ s.getV r) :
    xDestination? i = some r ∨ (definesFlag i = true ∧ r = vf) ∨ ∃ x : Nibble, i = .ldVxMem x ∧ r.toNat ≤ x.toNat := by
  by_contra hc
  simp only [not_or, not_and, not_exists, Nat.not_le] at hc
  obtain ⟨hdest, hflag, hload⟩ := hc
  exact hr (exec_getV_of_not_destination h hdest hflag hload)

end

/-- Settles O14: the writers of the V registers, and those of each other piece. -/
theorem onlyListedInstructionsWrite : Obligations.OnlyListedInstructionsWrite := by
  unfold Obligations.OnlyListedInstructionsWrite
  intro i s t h
  have w := exec_onlyWriters h
  refine ⟨fun r => exec_getV_writers h, w.i, w.stk, w.sp, w.mem, w.fb, w.dt, w.st, w.keys, w.kw, w.kwKey, fun hrun => ?_,
    w.draws⟩
  obtain ⟨hhalt, hrecord⟩ := w.latch hrun
  exact ⟨hhalt.symm.trans hrun, hrecord⟩

end Sys2Proof.Machine
end

section
/-! PROOFS. The invariant (10_state.md sections 5 and 7): each of its parts is kept by every instruction, hence by every step,
by every event, and all along a run. -/

namespace Sys2Proof.Machine

section
variable {s t : State} {i : Instr}

/-! ### Canonical memory -/

/-- The two instructions that write memory store ranges of bytes. -/
theorem exec_mem_wf (hwf : s.mem.wf) (h : exec i s = .next t) : t.mem.wf := by
  by_cases hmem : t.mem = s.mem
  · rwa [hmem]
  · obtain ⟨x, rfl⟩ | ⟨x, rfl⟩ := (exec_onlyWriters h).mem hmem
    · cases effect_of_exec h with
      | straight hi _ => cases hi
      | fault _ => exact hwf
      | ldB _ hm => exact Memory.writeBytes?_wf hwf hm
    · cases effect_of_exec h with
      | straight hi _ => cases hi
      | fault _ => exact hwf
      | ldMemVx _ hm => exact Memory.writeBytes?_wf hwf hm

theorem step_mem_wf (hwf : s.mem.wf) (h : step s = .next t) : t.mem.wf := by
  obtain ⟨-, h'⟩ | ⟨-, -, h'⟩ | ⟨op, e, -, -, -, h'⟩ | ⟨op, i, -, -, -, h'⟩ := step_cases s
  · cases h'.symm.trans h; exact hwf
  · cases h'.symm.trans h; exact hwf
  · cases h'.symm.trans h; exact hwf
  · exact exec_mem_wf hwf (h'.symm.trans h)

/-! ### The bound on PC (10_state.md R31) -/

theorem toNat_add_two (hpc : s.pc.toNat < pcFetchLimit) : (s.pc + 2#16).toNat = s.pc.toNat + 2 := by
  simp only [pcFetchLimit] at hpc
  rw [BitVec.toNat_add]
  exact Nat.mod_eq_of_lt (by simp; omega)

theorem pcBounded_of_pc_eq (hpc : s.pc.toNat < pcFetchLimit) (h : t.pc = s.pc + 2#16) : t.pcBounded := by
  unfold State.pcBounded
  rw [h, toNat_add_two hpc]
  simp only [pcFetchLimit] at hpc
  omega

theorem State.pc_loadV_advance (s : State) (bs : List Byte) : (s.loadV bs).advance.pc = s.pc + 2#16 := by
  rw [State.advance_pc, State.loadV_pc]

theorem pcBounded_skipIf (hpc : s.pc.toNat < pcFetchLimit) (taken : Bool) : (s.skipIf taken).pcBounded := by
  have h2 := toNat_add_two hpc
  unfold State.pcBounded
  simp only [pcFetchLimit] at hpc
  cases taken
  · simp only [State.skipIf_pc, State.npc_eq, Bool.false_eq_true, if_false]
    omega
  · simp only [State.skipIf_pc, State.npc_eq, if_true, BitVec.toNat_add (s.pc + 2#16), h2]
    exact Nat.le_trans (Nat.mod_le _ _) (by simp; omega)

theorem toNat_zextAddr_le (nnn : Addr12) : (zextAddr nnn).toNat ≤ 4095 := by
  have := nnn.isLt
  rw [toNat_zextAddr]
  omega

theorem toNat_zextAddr_add_zextByte (nnn : Addr12) (b : Byte) :
    (zextAddr nnn + zextByte b).toNat = nnn.toNat + b.toNat := by
  have := nnn.isLt
  have := b.isLt
  rw [BitVec.toNat_add, toNat_zextAddr, BitVec.toNat_setWidth_of_le (by decide)]
  exact Nat.mod_eq_of_lt (by omega)

theorem pcBounded_of_straight (hpc : s.pc.toNat < pcFetchLimit) (hi : branches i = false) (h : exec i s = .next t) :
    t.pcBounded := by
  cases i with
  | ret | call _ | drw _ _ _ | skp _ | sknp _ | ldVxK _ | ldB _ | ldMemVx _ | ldVxMem _ => cases hi
  | jp nnn =>
    cases h
    exact Nat.le_trans (toNat_zextAddr_le nnn) (by decide)
  | jpV0 nnn =>
    cases h
    have := nnn.isLt
    have := (s.getV 0x0#4).isLt
    unfold State.pcBounded
    rw [State.setPc_pc, toNat_zextAddr_add_zextByte]
    omega
  | seImm _ _ | sneImm _ _ | seReg _ _ | sneReg _ _ =>
    cases h
    exact pcBounded_skipIf hpc _
  | cls | ldI _ | ldImm _ _ | addImm _ _ | ldReg _ _ | orReg _ _ | andReg _ _ | xorReg _ _ | addReg _ _ | subReg _ _
  | shr _ _ | subnReg _ _ | shl _ _ | rnd _ _ | ldVxDt _ | ldDtVx _ | ldStVx _ | addI _ | ldF _ =>
    cases h
    exact pcBounded_of_pc_eq hpc rfl

/-- An instruction fetched below the limit leaves PC, advances it by 2 or 4, takes it from the stack, or jumps to at most
0xFFF + 0xFF. -/
theorem exec_pcBounded (hpc : s.pc.toNat < pcFetchLimit) (hstack : s.stackBounded) (h : exec i s = .next t) :
    t.pcBounded := by
  have hb : s.pcBounded := Nat.le_trans hpc.le (by decide)
  cases effect_of_exec h with
  | straight hi h => exact pcBounded_of_straight hpc hi h
  | fault _ | arm _ _ | wait _ _ _ => exact hb
  | ret hsp => exact Nat.le_trans (hstack _ _ (Nat.sub_lt hsp (by decide))) (by decide)
  | call nnn _ => exact Nat.le_trans (toNat_zextAddr_le nnn) (by decide)
  | skp _ _ | sknp _ _ => exact pcBounded_skipIf hpc _
  | ldVxMem _ _ => exact pcBounded_of_pc_eq hpc (s.pc_loadV_advance _)
  | drw _ _ _ _ | deliver _ _ _ | ldB _ _ | ldMemVx _ _ => exact pcBounded_of_pc_eq hpc rfl

/-! ### The return addresses in use (41_flow.md R141, R143) -/

theorem stackBounded_of_le (hstk : t.stk = s.stk) (hsp : t.sp.val ≤ s.sp.val) (h : s.stackBounded) : t.stackBounded := by
  intro k hk hlt
  simp only [hstk]
  exact h k hk (Nat.lt_of_lt_of_le hlt hsp)

/-- The address pushed is that of the instruction after one fetched below the limit. -/
theorem stackBounded_push (hpc : s.pc.toNat < pcFetchLimit) (hstack : s.stackBounded) (hlt : s.sp.val < Config.stackDepth) :
    State.stackBounded { s with stk := s.stk.set s.sp.val s.npc hlt, sp := ⟨s.sp.val + 1, Nat.succ_lt_succ hlt⟩ } := by
  intro k hk hkt
  have hle : k < s.sp.val + 1 := hkt
  simp only [Vector.getElem_set]
  split
  · rw [State.npc_eq, toNat_add_two hpc]
    simp only [pcFetchLimit] at hpc
    omega
  · exact hstack k hk (by omega)

theorem exec_stackBounded (hpc : s.pc.toNat < pcFetchLimit) (hstack : s.stackBounded) (h : exec i s = .next t) :
    t.stackBounded := by
  have w := exec_onlyWriters h
  by_cases hsame : t.stk = s.stk ∧ t.sp = s.sp
  · obtain ⟨hstk, hsp⟩ := hsame
    exact stackBounded_of_le hstk (by rw [hsp]) hstack
  · have hi : i = .ret ∨ ∃ nnn, i = .call nnn := by
      obtain hstk | hsp := Decidable.not_and_iff_or_not.mp hsame
      · exact .inr (w.stk hstk)
      · exact w.sp hsp
    obtain rfl | ⟨nnn, rfl⟩ := hi
    · cases effect_of_exec h with
      | straight hi _ => cases hi
      | fault _ => exact hstack
      | ret _ => exact stackBounded_of_le (s := s) rfl (Nat.sub_le _ _) hstack
    · cases effect_of_exec h with
      | straight hi _ => cases hi
      | fault _ => exact hstack
      | call _ hlt => exact stackBounded_push hpc hstack hlt

/-! ### The input arbiter (10_state.md R37; 46_input.md R253) -/

/-- The fetch reads PC and memory and nothing else. -/
theorem State.fetch_congr (hpc : t.pc = s.pc) (hmem : ∀ a, t.mem.read? a = s.mem.read? a) : t.fetch = s.fetch := by
  simp only [State.fetch, hpc, hmem]

/-- Only an FX0A writes the arbiter's latch. -/
theorem exec_kw_eq (hi : ∀ x, i ≠ .ldVxK x) (h : exec i s = .next t) :
    t.kwWait = s.kwWait ∧ t.kwValid = s.kwValid := by
  by_contra hc
  obtain ⟨x, hx⟩ := (exec_onlyWriters h).kw (Decidable.not_and_iff_or_not.mp hc)
  exact hi x hx

theorem exec_arbiterCoherent (harb : s.arbiterCoherent) (h : exec i s = .next t) : t.arbiterCoherent := by
  by_cases hi : ∃ x, i = .ldVxK x
  · obtain ⟨x, rfl⟩ := hi
    obtain ⟨-, hk⟩ | ⟨-, -, hk⟩ | ⟨-, -, hk⟩ := execLdVxK_cases x s
    · cases hk.symm.trans h
      exact fun _ => rfl
    · cases hk.symm.trans h
      exact harb
    · cases hk.symm.trans h
      exact fun hvalid => Bool.noConfusion hvalid
  · obtain ⟨hwait, hvalid⟩ := exec_kw_eq (fun x e => hi ⟨x, e⟩) h
    unfold State.arbiterCoherent
    rwa [hwait, hvalid]

/-- An FX0A that begins or goes on waiting leaves PC and memory alone, and no other instruction is at PC during a wait. -/
theorem exec_waitsAtKeyRead {op : Word} (hwaits : s.waitsAtKeyRead) (hrun : s.halt = false) (hfetch : s.fetch = some op)
    (hdec : decode op = .ok i) (h : exec i s = .next t) : t.waitsAtKeyRead := by
  by_cases hi : ∃ x, i = .ldVxK x
  · obtain ⟨x, rfl⟩ := hi
    obtain ⟨-, hk⟩ | ⟨-, -, hk⟩ | ⟨-, -, hk⟩ := execLdVxK_cases x s
    · cases hk.symm.trans h
      exact fun _ => ⟨hrun, op, x, hfetch, hdec⟩
    · cases hk.symm.trans h
      exact hwaits
    · cases hk.symm.trans h
      exact fun hwait => Bool.noConfusion hwait
  · intro hwait
    rw [(exec_kw_eq (fun x e => hi ⟨x, e⟩) h).1] at hwait
    obtain ⟨-, op', x, hfetch', hdec'⟩ := hwaits hwait
    cases hfetch.symm.trans hfetch'
    cases hdec.symm.trans hdec'
    exact absurd ⟨x, rfl⟩ hi

/-! ### The fault record (10_state.md R39) -/

theorem latchCoherent_of_sameLatch (h : SameLatch s t) (hlatch : s.latchCoherent) : t.latchCoherent := by
  obtain ⟨hhalt, hkind, hpc, hop⟩ := h
  unfold State.latchCoherent
  rwa [hhalt, hkind, hpc, hop]

theorem CanFault.ne_romTooLarge {k : ErrorKind} (h : CanFault s i k) : k ≠ .romTooLarge := by
  cases h <;> decide

/-- A fault of a step writes one of the four fatal codes (60_exceptions.md R291). -/
theorem latchCoherent_latch (s : State) {k : ErrorKind} (op : Word) (hk : k ≠ .romTooLarge) :
    (s.latch k op).latchCoherent := by
  refine ⟨fun h => Bool.noConfusion h, fun _ => ?_⟩
  rw [State.latch_faultKind]
  cases k with
  | romTooLarge => exact absurd rfl hk
  | invalidInstruction | stackOverflow | stackUnderflow | outOfBounds => decide

theorem exec_latchCoherent (hlatch : s.latchCoherent) (h : exec i s = .next t) : t.latchCoherent := by
  obtain hsame | ⟨k, hk, rfl⟩ := (effect_of_exec h).latch_cases
  · exact latchCoherent_of_sameLatch hsame hlatch
  · exact latchCoherent_latch s _ hk.ne_romTooLarge

/-! ### The step -/

theorem exec_inv {op : Word} (hinv : s.Inv) (hrun : s.halt = false) (hfetch : s.fetch = some op)
    (hdec : decode op = .ok i) (h : exec i s = .next t) : t.Inv := by
  obtain ⟨hpc, -⟩ | ⟨-, hnone⟩ := s.fetch_cases
  · exact
      { mem := exec_mem_wf hinv.mem h
        pc := exec_pcBounded hpc hinv.stack h
        stack := exec_stackBounded hpc hinv.stack h
        arbiter := exec_arbiterCoherent hinv.arbiter h
        waiting := exec_waitsAtKeyRead hinv.waiting hrun hfetch hdec h
        latch := exec_latchCoherent hinv.latch h }
  · cases hfetch.symm.trans hnone

/-- A fault of a machine that does not wait keeps the invariant. -/
theorem latch_inv {k : ErrorKind} {op : Word} (hinv : s.Inv) (hwait : s.kwWait = false) (hk : k ≠ .romTooLarge) :
    (s.latch k op).Inv where
  mem := hinv.mem
  pc := hinv.pc
  stack := hinv.stack
  arbiter := hinv.arbiter
  waiting := fun h => Bool.noConfusion (hwait.symm.trans h)
  latch := latchCoherent_latch s op hk

/-- A waiting machine has a word at PC that decodes, so a fault of the fetch or of the decoder finds no wait. -/
theorem kwWait_eq_false (hinv : s.Inv) (h : ∀ op x, s.fetch = some op → decode op ≠ .ok (.ldVxK x)) :
    s.kwWait = false := by
  rw [← Bool.not_eq_true]
  intro hwait
  obtain ⟨-, op, x, hfetch, hdec⟩ := hinv.waiting hwait
  exact h op x hfetch hdec

theorem step_inv (hinv : s.Inv) (h : step s = .next t) : t.Inv := by
  obtain ⟨-, h'⟩ | ⟨-, hfetch, h'⟩ | ⟨op, e, -, hfetch, hdec, h'⟩ | ⟨op, i, hrun, hfetch, hdec, h'⟩ :=
    step_cases s
  · cases h'.symm.trans h
    exact hinv
  · cases h'.symm.trans h
    refine latch_inv hinv (kwWait_eq_false hinv fun op x hop => ?_) (by decide)
    cases hfetch.symm.trans hop
  · cases h'.symm.trans h
    refine latch_inv hinv (kwWait_eq_false hinv fun op x hop hok => ?_) (by decide)
    cases hfetch.symm.trans hop
    cases hdec.symm.trans hok
  · exact exec_inv hinv hrun hfetch hdec (h'.symm.trans h)

end

/-- Settles O17: the four outcomes of a step, the last by the parts of the invariant. -/
theorem stepKeepsInvariant : Obligations.StepKeepsInvariant := by
  unfold Obligations.StepKeepsInvariant
  intro s t
  exact step_inv

end Sys2Proof.Machine
end

section
/-! PROOFS. Every event of the host interface (47_host_interface.md R265): what a press and a load can do, the parts of the
state each event leaves alone, and the invariant along every run of the core. -/

namespace Sys2Proof.Machine

section
variable {s t : State} {r : Response} {e : Event} {k : Nibble} {rom : List Byte}

/-! ### Everything a press and a load can do -/

/-- Everything a press can do (46_input.md R256). -/
theorem press_cases (k : Nibble) (s : State) :
    press k s = s ∨ press k s = s.setKey k true ∨
    (s.kwWait = true ∧ s.kwValid = false ∧ press k s = (s.setKey k true).capture k) := by
  cases hdown : s.keyDown k
  · cases hwait : s.kwWait
    · exact .inr (.inl (press_of_not_waiting hdown (.inl hwait)))
    · cases hvalid : s.kwValid
      · exact .inr (.inr ⟨rfl, rfl, press_of_waiting hdown hwait hvalid⟩)
      · exact .inr (.inl (press_of_not_waiting hdown (.inr hvalid)))
  · exact .inl (press_of_down hdown)

/-- Everything the event `Load` can do (47_host_interface.md R270, R271). -/
theorem applyEvent_load_cases (rom : List Byte) (s : State) :
    (∃ m, rom.length ≤ romMax ∧ s.mem.writeBytes? Config.progBase rom = some m ∧
      applyEvent (.load rom) s = .next ((s.setMem m).disarm, .loaded)) ∨
    (romMax < rom.length ∧ applyEvent (.load rom) s = .next (s, .error .romTooLarge)) := by
  rcases Nat.lt_or_ge romMax rom.length with hlong | hfits
  · exact .inr ⟨hlong, applyEvent_load_of_too_long hlong⟩
  · obtain ⟨m, hwrite, hload⟩ := applyEvent_load_of_fits (s := s) hfits
    exact .inl ⟨m, hfits, hwrite, hload⟩

/-- The event `Step` leaves what the step leaves. -/
theorem step_of_applyEvent (h : applyEvent .step s = .next (t, r)) : step s = .next t := by
  obtain ⟨u, hstep⟩ := step_total s
  cases (applyEvent_step hstep).symm.trans h
  exact hstep

/-! ### The fault latch -/

theorem sameLatch_press (k : Nibble) (s : State) : SameLatch s (press k s) := by
  obtain h | h | ⟨-, -, h⟩ := press_cases k s <;> rw [h] <;> exact ⟨rfl, rfl, rfl, rfl⟩

theorem sameLatch_of_load (h : applyEvent (.load rom) s = .next (t, r)) : SameLatch s t := by
  obtain ⟨m, -, -, h'⟩ | ⟨-, h'⟩ := applyEvent_load_cases rom s
  · cases h'.symm.trans h
    exact ⟨rfl, rfl, rfl, rfl⟩
  · cases h'.symm.trans h
    exact ⟨rfl, rfl, rfl, rfl⟩

/-- No event but `Reset` touches the latch of a halted machine (60_exceptions.md R308). -/
theorem sameLatch_of_halted (hhalt : s.halt = true) (hreset : e ≠ .reset) (h : applyEvent e s = .next (t, r)) :
    SameLatch s t := by
  cases e with
  | reset => exact absurd rfl hreset
  | load rom => exact sameLatch_of_load h
  | step =>
    cases (step_of_halted hhalt).symm.trans (step_of_applyEvent h)
    exact ⟨rfl, rfl, rfl, rfl⟩
  | press k => cases h; exact sameLatch_press k s
  | tick | release k | readDisplay | readRegisters => cases h; exact ⟨rfl, rfl, rfl, rfl⟩

/-! ### Canonical memory -/

theorem press_mem (k : Nibble) (s : State) : (press k s).mem = s.mem := by
  obtain h | h | ⟨-, -, h⟩ := press_cases k s <;> rw [h] <;> rfl

theorem mem_wf_of_load (hwf : s.mem.wf) (h : applyEvent (.load rom) s = .next (t, r)) : t.mem.wf := by
  obtain ⟨m, -, hm, h'⟩ | ⟨-, h'⟩ := applyEvent_load_cases rom s
  · cases h'.symm.trans h
    exact Memory.writeBytes?_wf hwf hm
  · cases h'.symm.trans h
    exact hwf

theorem applyEvent_mem_wf (hwf : s.mem.wf) (h : applyEvent e s = .next (t, r)) : t.mem.wf := by
  cases e with
  | reset => cases h; exact reset_mem_wf
  | load rom => exact mem_wf_of_load hwf h
  | step => exact step_mem_wf hwf (step_of_applyEvent h)
  | press k => cases h; rw [press_mem]; exact hwf
  | tick | release k | readDisplay | readRegisters => cases h; exact hwf

/-! ### The invariant -/

theorem reset_inv : State.reset.Inv where
  mem := reset_mem_wf
  pc := by unfold State.pcBounded; decide
  stack := fun _ _ hk => absurd hk (Nat.not_lt_zero _)
  arbiter := fun h => Bool.noConfusion h
  waiting := fun h => Bool.noConfusion h
  latch := ⟨fun _ => ⟨rfl, rfl, rfl⟩, fun h => Bool.noConfusion h⟩

/-- The counter of draws, which `Reset` keeps, is no part of the invariant. -/
theorem doReset_inv (s : State) : s.doReset.Inv :=
  ⟨reset_inv.mem, reset_inv.pc, reset_inv.stack, reset_inv.arbiter, reset_inv.waiting, reset_inv.latch⟩

theorem tick_inv (hinv : s.Inv) : (tick s).Inv :=
  ⟨hinv.mem, hinv.pc, hinv.stack, hinv.arbiter, hinv.waiting, hinv.latch⟩

theorem setKey_inv (k : Nibble) (d : Bool) (hinv : s.Inv) : (s.setKey k d).Inv :=
  ⟨hinv.mem, hinv.pc, hinv.stack, hinv.arbiter, hinv.waiting, hinv.latch⟩

/-- A capture happens only during a wait, so that `KW_VALID` still implies `KW_WAIT`. -/
theorem capture_inv (k : Nibble) (hinv : s.Inv) (hwait : s.kwWait = true) : (s.capture k).Inv :=
  ⟨hinv.mem, hinv.pc, hinv.stack, fun _ => hwait, hinv.waiting, hinv.latch⟩

theorem press_inv (k : Nibble) (hinv : s.Inv) : (press k s).Inv := by
  obtain h | h | ⟨hwait, -, h⟩ := press_cases k s <;> rw [h]
  · exact hinv
  · exact setKey_inv k true hinv
  · exact capture_inv k (setKey_inv k true hinv) hwait

/-- A load may replace the waiting FX0A, and ends the wait. -/
theorem load_inv (hinv : s.Inv) (h : applyEvent (.load rom) s = .next (t, r)) : t.Inv := by
  obtain ⟨m, -, hm, h'⟩ | ⟨-, h'⟩ := applyEvent_load_cases rom s
  · cases h'.symm.trans h
    exact
      { mem := Memory.writeBytes?_wf hinv.mem hm
        pc := hinv.pc
        stack := hinv.stack
        arbiter := fun hvalid => Bool.noConfusion hvalid
        waiting := fun hwait => Bool.noConfusion hwait
        latch := hinv.latch }
  · cases h'.symm.trans h
    exact hinv

theorem applyEvent_inv (hinv : s.Inv) (h : applyEvent e s = .next (t, r)) : t.Inv := by
  cases e with
  | reset => cases h; exact doReset_inv s
  | load rom => exact load_inv hinv h
  | step => exact step_inv hinv (step_of_applyEvent h)
  | tick => cases h; exact tick_inv hinv
  | press k => cases h; exact press_inv k hinv
  | release k => cases h; exact setKey_inv k false hinv
  | readDisplay | readRegisters => cases h; exact hinv

/-! ### Every event is answered -/

theorem applyEvent_total (e : Event) (s : State) : ∃ t r, applyEvent e s = .next (t, r) := by
  cases e with
  | load rom =>
    obtain ⟨m, -, -, h⟩ | ⟨-, h⟩ := applyEvent_load_cases rom s
    · exact ⟨_, _, h⟩
    · exact ⟨_, _, h⟩
  | step =>
    obtain ⟨t, hstep⟩ := step_total s
    exact ⟨_, _, applyEvent_step hstep⟩
  | reset | tick | press k | release k | readDisplay | readRegisters => exact ⟨_, _, rfl⟩

/-- No event but a load answers an error. -/
theorem load_of_error {k : ErrorKind} (h : applyEvent e s = .next (t, .error k)) : ∃ rom, e = .load rom := by
  cases e with
  | load rom => exact ⟨rom, rfl⟩
  | step =>
    obtain ⟨u, hstep⟩ := step_total s
    cases (applyEvent_step hstep).symm.trans h
  | reset | tick | press k | release k | readDisplay | readRegisters => cases h

end

/-! ### The obligations -/

/-- Settles O9: the step of a halted machine is the identity, and the other events do not write the latch. -/
theorem haltedUntilReset : Obligations.HaltedUntilReset := by
  unfold Obligations.HaltedUntilReset
  refine ⟨fun s hhalt => ?_, fun e s t r hhalt hreset h => ?_, fun s => ⟨s.doReset, rfl, rfl⟩⟩
  · rw [applyEvent_step (step_of_halted hhalt), stepResult_of_halted hhalt]
  · obtain ⟨hsame, hrecord⟩ := sameLatch_of_halted hhalt hreset h
    exact ⟨hsame.trans hhalt, hrecord⟩

/-- Settles O16: each part of the invariant at the reset values. -/
theorem resetMeetsInvariant : Obligations.ResetMeetsInvariant := by
  unfold Obligations.ResetMeetsInvariant
  exact reset_inv

/-- Settles O18: a step keeps the invariant, and each other event writes little of what it speaks of. -/
theorem eventsKeepInvariant : Obligations.EventsKeepInvariant := by
  unfold Obligations.EventsKeepInvariant
  intro e s t r
  exact applyEvent_inv

/-- Settles O19: memory is written by stores of byte ranges and by `Reset` alone. -/
theorem memoryStaysCanonical : Obligations.MemoryStaysCanonical := by
  unfold Obligations.MemoryStaysCanonical
  intro e s t r
  exact applyEvent_mem_wf

/-- Settles O57: a load that is too long is the one event that answers an error. -/
theorem everyEventIsAccepted : Obligations.EveryEventIsAccepted := by
  unfold Obligations.EveryEventIsAccepted
  intro e s
  by_cases hload : ∃ rom, e = .load rom
  · obtain ⟨rom, rfl⟩ := hload
    obtain ⟨m, hfits, -, h⟩ | ⟨hlong, h⟩ := applyEvent_load_cases rom s
    · refine ⟨_, _, h, ⟨?_, ?_⟩, fun k hk => ?_⟩
      · rintro ⟨k, hk⟩; cases hk
      · rintro ⟨rom', he, hlong⟩
        cases he
        exact absurd hfits (Nat.not_le.mpr hlong)
      · cases hk
    · refine ⟨_, _, h, ⟨fun _ => ⟨rom, rfl, hlong⟩, fun _ => ⟨_, rfl⟩⟩, fun k hk => ?_⟩
      cases hk
      exact ⟨rfl, rfl⟩
  · obtain ⟨t, r, h⟩ := applyEvent_total e s
    have hr : ∀ k, r ≠ .error k := by
      rintro k rfl
      exact hload (load_of_error h)
    refine ⟨t, r, h, ⟨?_, ?_⟩, fun k hk => absurd hk (hr k)⟩
    · rintro ⟨k, hk⟩
      exact absurd hk (hr k)
    · rintro ⟨rom, he, -⟩
      exact absurd ⟨rom, he⟩ hload

/-- Settles O59: the invariant holds at reset and every event keeps it. -/
theorem coreRunsMeetInvariant : Obligations.CoreRunsMeetInvariant := by
  unfold Obligations.CoreRunsMeetInvariant
  intro sched trace hrun
  refine hrun.events.induction ?_ fun n t r hinv h => applyEvent_inv hinv h
  rw [hrun.start]
  exact reset_inv

end Sys2Proof.Machine
end

section
/-! PROOFS. Single instructions: the call stack (41_flow.md), BNNN, CXNN (42_alu.md), the index arithmetic
(43_index_memory.md), the tick (45_timers.md) and the key instructions (46_input.md). -/

namespace Sys2Proof.Machine

/-! ### The frames of the call stack's operations, of a draw and of the arbiter's latch -/

/-- A write of SP leaves every other piece of state, the stack entries included, as it was (41_flow.md R141). -/
theorem State.unchangedBut_sp (s : State) (n : Fin (Config.stackDepth + 1)) :
    UnchangedBut (only [.sp]) s { s with sp := n } where
  v _ _ := rfl
  i _ := rfl
  pc _ := rfl
  stk _ _ _ := rfl
  sp h := absurd (List.mem_singleton_self _) h
  mem _ _ := rfl
  fb _ := rfl
  dt _ := rfl
  st _ := rfl
  key _ _ := rfl
  kwWait _ := rfl
  kwValid _ := rfl
  kwKey _ := rfl
  latch _ := ⟨rfl, rfl, rfl, rfl⟩
  draws _ := rfl

/-- A write of `STK[k]` leaves every other piece of state, the other entries included, as it was. -/
theorem State.unchangedBut_stk (s : State) (k : Nat) (w : Word) (hk : k < Config.stackDepth) :
    UnchangedBut (only [.stk k]) s { s with stk := s.stk.set k w hk } where
  v _ _ := rfl
  i _ := rfl
  pc _ := rfl
  stk _ hj h := Vector.getElem_set_ne hk hj fun e => h (List.mem_singleton.mpr (congrArg Part.stk e.symm))
  sp _ := rfl
  mem _ _ := rfl
  fb _ := rfl
  dt _ := rfl
  st _ := rfl
  key _ _ := rfl
  kwWait _ := rfl
  kwValid _ := rfl
  kwKey _ := rfl
  latch _ := ⟨rfl, rfl, rfl, rfl⟩
  draws _ := rfl

/-- A push is a write of an entry and of SP; the list leaves room for the jump that follows (41_flow.md R143). -/
theorem State.unchangedBut_push (s : State) {k : Nat} (hk : k < Config.stackDepth) (w : Word)
    (n : Fin (Config.stackDepth + 1)) :
    UnchangedBut (only [.pc, .sp, .stk k]) s { s with stk := s.stk.set k w hk, sp := n } :=
  ((s.unchangedBut_stk k w hk).only_of_mem (by simp)).trans ((State.unchangedBut_sp _ n).only_of_mem (by simp))

/-- A draw taken is counted, and nothing else (log entry 1). -/
theorem State.unchangedBut_countDraw (s : State) : UnchangedBut (only [.draws]) s s.countDraw where
  v _ _ := rfl
  i _ := rfl
  pc _ := rfl
  stk _ _ _ := rfl
  sp _ := rfl
  mem _ _ := rfl
  fb _ := rfl
  dt _ := rfl
  st _ := rfl
  key _ _ := rfl
  kwWait _ := rfl
  kwValid _ := rfl
  kwKey _ := rfl
  latch _ := ⟨rfl, rfl, rfl, rfl⟩
  draws h := absurd (List.mem_singleton_self _) h

/-- A write of `KW_WAIT` and `KW_VALID` leaves every other piece of state, `KW_KEY` included, as it was. -/
theorem State.unchangedBut_kw (s : State) (wait valid : Bool) :
    UnchangedBut (only [.kwWait, .kwValid]) s { s with kwWait := wait, kwValid := valid } where
  v _ _ := rfl
  i _ := rfl
  pc _ := rfl
  stk _ _ _ := rfl
  sp _ := rfl
  mem _ _ := rfl
  fb _ := rfl
  dt _ := rfl
  st _ := rfl
  key _ _ := rfl
  kwWait h := absurd List.mem_cons_self h
  kwValid h := absurd (List.mem_cons_of_mem _ List.mem_cons_self) h
  kwKey _ := rfl
  latch _ := ⟨rfl, rfl, rfl, rfl⟩
  draws _ := rfl

/-- A frame that names the pieces of a list holds of every longer list. -/
theorem UnchangedBut.only_of_subset {ps qs : List Part} {s t : State} (h : UnchangedBut (only ps) s t) (hsub : ps ⊆ qs) :
    UnchangedBut (only qs) s t := h.mono fun _ hp => hsub hp

/-- A frame that names SP needs not, when SP is back where it was. -/
theorem UnchangedBut.without_sp {w w' : Part → Prop} {s t : State} (h : UnchangedBut w s t) (hsp : t.sp = s.sp)
    (hw : ∀ p, p ≠ .sp → w p → w' p) : UnchangedBut w' s t where
  v r hp := h.v r (mt (hw _ Part.noConfusion) hp)
  i hp := h.i (mt (hw _ Part.noConfusion) hp)
  pc hp := h.pc (mt (hw _ Part.noConfusion) hp)
  stk k hk hp := h.stk k hk (mt (hw _ Part.noConfusion) hp)
  sp _ := hsp
  mem a hp := h.mem a (mt (hw _ Part.noConfusion) hp)
  fb hp := h.fb (mt (hw _ Part.noConfusion) hp)
  dt hp := h.dt (mt (hw _ Part.noConfusion) hp)
  st hp := h.st (mt (hw _ Part.noConfusion) hp)
  key k hp := h.key k (mt (hw _ Part.noConfusion) hp)
  kwWait hp := h.kwWait (mt (hw _ Part.noConfusion) hp)
  kwValid hp := h.kwValid (mt (hw _ Part.noConfusion) hp)
  kwKey hp := h.kwKey (mt (hw _ Part.noConfusion) hp)
  latch hp := h.latch (mt (hw _ Part.noConfusion) hp)
  draws hp := h.draws (mt (hw _ Part.noConfusion) hp)

section
variable {s t u : State}

/-! ### Call and return (41_flow.md R141, R143) -/

theorem exec_ret_pops (h : 0 < s.sp.val) : ∃ t, exec .ret s = .next t ∧
    t.pc = s.stk[s.sp.val - 1]'(by have := s.sp.isLt; omega) ∧ t.sp.val = s.sp.val - 1 ∧
    UnchangedBut (only [.pc, .sp]) s t := by
  obtain ⟨_, hp⟩ | ⟨hzero, -⟩ := s.pop?_cases
  · exact ⟨_, execRet_of_pop hp, rfl, rfl,
      ((s.unchangedBut_sp _).only_of_mem (by simp)).trans ((State.unchangedBut_setPc _ _).only_of_mem (by simp))⟩
  · omega

theorem exec_call_pushes (nnn : Addr12) (h : s.sp.val < Config.stackDepth) : ∃ t, exec (.call nnn) s = .next t ∧
    t.pc.toNat = nnn.toNat ∧ t.sp.val = s.sp.val + 1 ∧ t.stk[s.sp.val] = s.pc + 2#16 ∧
    UnchangedBut (only [.pc, .sp, .stk s.sp.val]) s t := by
  obtain ⟨_, hp⟩ | ⟨hfull, -⟩ := s.push?_cases s.npc
  · exact ⟨_, execCall_of_push nnn hp, toNat_zextAddr nnn, rfl, Vector.getElem_set_self h,
      (s.unchangedBut_push h _ _).trans ((State.unchangedBut_setPc _ _).only_of_mem (by simp))⟩
  · omega

/-- The return pops the entry that the call pushed, and SP is back. -/
theorem ret_after_call (hsp : t.sp.val = s.sp.val + 1) (hs : s.sp.val < Config.stackDepth)
    (hentry : t.stk[s.sp.val] = s.pc + 2#16) : ∃ u, exec .ret t = .next u ∧ u.pc = s.pc + 2#16 ∧ u.sp = s.sp ∧
    UnchangedBut (only [.pc, .sp]) t u := by
  obtain ⟨u, hexec, hpc, hsp', hframe⟩ := exec_ret_pops (s := t) (by omega)
  refine ⟨u, hexec, ?_, Fin.ext (by omega), hframe⟩
  simpa only [hsp, Nat.add_sub_cancel, hentry] using hpc

/-! ### The index register -/

theorem toNat_add_zextByte (w : Word) (b : Byte) : (w + zextByte b).toNat = (w.toNat + b.toNat) % 65536 := by
  rw [BitVec.toNat_add, BitVec.toNat_setWidth_of_le (by decide)]

/-! ### The timers -/

theorem unchangedBut_tick (s : State) : UnchangedBut (only [.dt, .st]) s (tick s) :=
  ((s.unchangedBut_setDt _).only_of_mem (by simp)).trans ((State.unchangedBut_setSt _ _).only_of_mem (by simp))

/-! ### The keys -/

theorem keyIndex?_of_toNat_eq {b : Byte} {k : Nibble} (h : b.toNat = k.toNat) : keyIndex? b = some k := by
  have := k.isLt
  obtain ⟨k', hk', hkey⟩ | ⟨hbeyond, -⟩ := keyIndex?_cases b
  · rw [hkey, BitVec.eq_of_toNat_eq (hk'.trans h)]
  · omega

theorem keyIndex?_of_beyond {b : Byte} (h : 15 < b.toNat) : keyIndex? b = none := by
  obtain ⟨k, hk, -⟩ | ⟨-, hkey⟩ := keyIndex?_cases b
  · have := k.isLt
    omega
  · exact hkey

/-- A delivery writes `V[X]`, the latch and PC (46_input.md R252). -/
theorem State.unchangedBut_deliver (s : State) (x : Nibble) (b : Byte) :
    UnchangedBut (only [.v x, .kwWait, .kwValid, .pc]) s ((s.setV x b).disarm).advance :=
  have register := (s.unchangedBut_setV x b).only_of_mem (ps := [.v x, .kwWait, .kwValid, .pc]) (by simp)
  have arbiter := ((s.setV x b).unchangedBut_kw false false).only_of_subset (qs := [.v x, .kwWait, .kwValid, .pc]) (by simp)
  (register.trans arbiter).trans ((State.unchangedBut_setPc _ _).only_of_mem (by simp))

end

/-! ### The obligations -/

/-- Settles O20: the two cases of a pop. -/
theorem returnPopsStack : Obligations.ReturnPopsStack := by
  unfold Obligations.ReturnPopsStack
  refine ⟨fun s => exec_ret_pops, fun s hempty => ?_⟩
  obtain ⟨hpos, -⟩ | ⟨-, hp⟩ := s.pop?_cases
  · omega
  · exact ⟨_, execRet_of_empty hp, s.takesFault_latch _ _⟩

/-- Settles O22: the two cases of a push. -/
theorem callPushesNextAddress : Obligations.CallPushesNextAddress := by
  unfold Obligations.CallPushesNextAddress
  refine ⟨fun nnn s => exec_call_pushes nnn, fun nnn s hfull => ?_⟩
  obtain ⟨hlt, -⟩ | ⟨-, hp⟩ := s.push?_cases s.npc
  · simp only [Config.stackDepth] at hlt
    omega
  · exact ⟨_, execCall_of_full nnn hp, s.takesFault_latch _ _⟩

/-- Settles O26: the frames of the call and of the return compose, with SP back where it was. -/
theorem callThenReturn : Obligations.CallThenReturn := by
  unfold Obligations.CallThenReturn
  intro nnn s hs
  obtain ⟨t, hcall, -, hsp, hentry, hframe⟩ := exec_call_pushes nnn hs
  obtain ⟨u, hret, hpc, hback, hframe'⟩ := ret_after_call hsp hs hentry
  refine ⟨t, u, hcall, hret, hpc, hback, ?_⟩
  have both := hframe.trans (hframe'.only_of_subset (by simp))
  refine both.without_sp hback fun p hne hp => ?_
  obtain rfl | rfl | rfl : p = .pc ∨ p = .sp ∨ p = .stk s.sp.val := by simpa [only] using hp
  · exact List.mem_cons_self
  · exact absurd rfl hne
  · exact List.mem_cons_of_mem _ List.mem_cons_self

/-- Settles O23: BNNN is a write of PC, and the sum of twelve and eight bits fits in sixteen. -/
theorem jumpWithOffset : Obligations.JumpWithOffset := by
  unfold Obligations.JumpWithOffset
  intro nnn s
  have hpc := toNat_zextAddr_add_zextByte nnn (s.getV 0x0#4)
  have hn := nnn.isLt
  have hb := (s.getV 0x0#4).isLt
  exact ⟨_, rfl, hpc, Nat.le_trans hpc.le (by omega), s.unchangedBut_setPc _⟩

/-- Settles O32: for every draw, a write of VX, the count and the advance. -/
theorem randomMasksDraw : Obligations.RandomMasksDraw := by
  unfold Obligations.RandomMasksDraw
  intro x nn s
  refine ⟨⟨_, rfl, rfl⟩, fun draw => ⟨s.getV_setV_same x _, rfl, rfl, ?_⟩⟩
  have register := (s.unchangedBut_setV x (draw &&& nn)).only_of_mem (ps := [.v x, .pc, .draws]) (by simp)
  have count := (State.unchangedBut_countDraw (s.setV x (draw &&& nn))).only_of_mem (ps := [.v x, .pc, .draws]) (by simp)
  exact (register.trans count).trans ((State.unchangedBut_setPc _ _).only_of_mem (by simp))

/-- Settles O34: both are a write of I. -/
theorem indexArithmetic : Obligations.IndexArithmetic := by
  unfold Obligations.IndexArithmetic
  intro x s
  exact ⟨writesI_of_exec_eq rfl (toNat_add_zextByte _ _), writesI_of_exec_eq rfl (digitAddress_toNat _)⟩

/-- Settles O43: a tick is a write of each counter, with the count one lower or still 0. -/
theorem tickCountsDown : Obligations.TickCountsDown := by
  unfold Obligations.TickCountsDown
  intro s
  exact ⟨tick s, rfl, decrement_toNat s.dt, decrement_toNat s.st, unchangedBut_tick s⟩

/-- Settles O45: both are conditional skips on the key's state, and the fault is that of an index that names no key. -/
theorem keySkips : Obligations.KeySkips := by
  unfold Obligations.KeySkips
  refine ⟨fun x k s hk => ⟨?_, ?_⟩, fun x s hbeyond => ⟨?_, ?_⟩⟩
  · exact skips_of_exec_eq (execSkp_of_key (keyIndex?_of_toNat_eq hk)) Iff.rfl
  · obtain ⟨t, hexec, hpc, hframe⟩ := skips_of_exec_eq (i := .sknp x) (p := ¬ s.keyDown k = true)
      (execSknp_of_key (keyIndex?_of_toNat_eq hk)) (by simp)
    exact ⟨t, hexec, by rw [hpc, ite_not], hframe⟩
  · exact ⟨_, execSkp_of_beyond (keyIndex?_of_beyond hbeyond), s.takesFault_latch _ _⟩
  · exact ⟨_, execSknp_of_beyond (keyIndex?_of_beyond hbeyond), s.takesFault_latch _ _⟩

/-- Settles O46: the three cases of FX0A. -/
theorem keyReadArbiter : Obligations.KeyReadArbiter := by
  unfold Obligations.KeyReadArbiter
  intro x s
  obtain ⟨hwait, h⟩ | ⟨hwait, hvalid, h⟩ | ⟨hwait, hvalid, h⟩ := execLdVxK_cases x s
  · refine ⟨_, h, fun _ => ⟨rfl, rfl, s.unchangedBut_kw true false⟩, ?_, ?_⟩ <;> simp [hwait]
  · refine ⟨_, h, ?_, fun _ _ => rfl, ?_⟩ <;> simp [hwait, hvalid]
  · refine ⟨_, h, ?_, ?_, fun _ _ => ⟨?_, rfl, rfl, rfl, s.unchangedBut_deliver x _⟩⟩
    · simp [hwait]
    · simp [hvalid]
    · rw [State.advance_getV, State.disarm_getV, State.getV_setV_same]
      exact BitVec.toNat_setWidth_of_le (by decide)

end Sys2Proof.Machine
end

section
/-! PROOFS. Memory through I (43_index_memory.md), a loaded ROM (47_host_interface.md) and the reset values: the frame of a
range written and of a register range loaded, and the byte each address then holds. -/

namespace Sys2Proof.Machine

section
variable {s t : State} {bs : List Byte} {a : Nat} {m : Memory}

/-! ### A range of bytes written -/

/-- The bytes of memory at `a`, `a + 1`, ..., `n` of them. -/
def bytesFrom (a n : Nat) (p : Part) : Prop := ∃ j, j < n ∧ p = .mem (a + j)

/-- A range write leaves every byte outside the range, and every other piece of state, as it was. -/
theorem State.unchangedBut_setMem (hwf : s.mem.wf) (h : s.mem.writeBytes? a bs = some m) :
    UnchangedBut (bytesFrom a bs.length) s (s.setMem m) where
  v _ _ := rfl
  i _ := rfl
  pc _ := rfl
  stk _ _ _ := rfl
  sp _ := rfl
  mem a' ha' := by
    rw [State.setMem_mem, Memory.read?_writeBytes? hwf h]
    refine if_neg fun hr => ha' ⟨a' - a, by omega, congrArg Part.mem (by omega)⟩
  fb _ := rfl
  dt _ := rfl
  st _ := rfl
  key _ _ := rfl
  kwWait _ := rfl
  kwValid _ := rfl
  kwKey _ := rfl
  latch _ := ⟨rfl, rfl, rfl, rfl⟩
  draws _ := rfl

/-- The `j`-th byte of a range write is read back. -/
theorem read?_of_writeBytes? (hwf : s.mem.wf) (h : s.mem.writeBytes? a bs = some m) {j : Nat} (hj : j < bs.length) :
    m.read? (a + j) = bs[j]? := by
  rw [Memory.read?_writeBytes? hwf h, if_pos ⟨Nat.le_add_right a j, Nat.add_lt_add_left hj a⟩, Nat.add_sub_cancel_left]

/-- What an instruction leaves that stores a range of bytes through I and advances. -/
theorem stores_of_exec_eq {i : Instr} (hwf : s.mem.wf) (hm : s.mem.writeBytes? s.i.toNat bs = some m)
    (h : exec i s = .next (s.setMem m).advance) :
    ∃ t, exec i s = .next t ∧ (∀ j, j < bs.length → t.mem.read? (s.i.toNat + j) = bs[j]?) ∧ t.pc = s.pc + 2#16 ∧
      UnchangedBut (fun p => p = .pc ∨ bytesFrom s.i.toNat bs.length p) s t := by
  refine ⟨_, h, fun j hj => read?_of_writeBytes? hwf hm hj, rfl, ?_⟩
  have range := (State.unchangedBut_setMem hwf hm).mono (w' := fun p => p = .pc ∨ bytesFrom s.i.toNat bs.length p)
    fun _ => .inr
  exact range.trans (((s.setMem m).unchangedBut_setPc _).mono fun _ hp => .inl (List.mem_singleton.mp hp))

/-- A list of bytes that fits from I on is stored. -/
theorem exists_storeAtI? (hb : bs ≠ []) (h : s.i.toNat + bs.length ≤ memSize) :
    ∃ m, s.mem.writeBytes? s.i.toNat bs = some m ∧ s.storeAtI? bs = some (s.setMem m) := by
  obtain ⟨m, -, hm, hstore⟩ | ⟨hlt, -⟩ := s.storeAtI?_cases hb
  · exact ⟨m, hm, hstore⟩
  · omega

theorem storeAtI?_of_beyond (hb : bs ≠ []) (h : memSize < s.i.toNat + bs.length) : s.storeAtI? bs = none := by
  obtain ⟨m, hle, -⟩ | ⟨-, hstore⟩ := s.storeAtI?_cases hb
  · omega
  · exact hstore

variable {x : Nibble}

theorem exec_ldB_stores (hwf : s.mem.wf) (h : s.i.toNat + 3 ≤ memSize) :
    ∃ t, exec (.ldB x) s = .next t ∧
      (∀ j, j < 3 → t.mem.read? (s.i.toNat + j) = (bcdDigits (s.getV x))[j]?) ∧ t.pc = s.pc + 2#16 ∧
      UnchangedBut (fun p => p = .pc ∨ bytesFrom s.i.toNat 3 p) s t := by
  obtain ⟨m, hm, hstore⟩ := exists_storeAtI? (bcdDigits_ne_nil (s.getV x)) h
  exact stores_of_exec_eq hwf hm (execLdB_of_store hstore)

theorem State.firstV_getElem? (s : State) {x k : Nibble} (hk : k.toNat ≤ x.toNat) :
    (s.firstV x)[k.toNat]? = some (s.getV k) := by
  have hlen : k.toNat < (s.firstV x).length := by rw [State.length_firstV]; exact Nat.lt_succ_of_le hk
  rw [List.getElem?_eq_getElem hlen, State.getElem_firstV]

theorem exec_ldMemVx_stores (hwf : s.mem.wf) (h : s.i.toNat + (x.toNat + 1) ≤ memSize) :
    ∃ t, exec (.ldMemVx x) s = .next t ∧
      (∀ k : Nibble, k.toNat ≤ x.toNat → t.mem.read? (s.i.toNat + k.toNat) = some (s.getV k)) ∧ t.pc = s.pc + 2#16 ∧
      UnchangedBut (fun p => p = .pc ∨ bytesFrom s.i.toNat (x.toNat + 1) p) s t := by
  have hlen := s.length_firstV x
  obtain ⟨m, hm, hstore⟩ := exists_storeAtI? (s.firstV_ne_nil x) (by rwa [hlen])
  obtain ⟨t, hexec, hread, hpc, hframe⟩ := stores_of_exec_eq (i := .ldMemVx x) hwf hm (execLdMemVx_of_store hstore)
  rw [hlen] at hframe
  refine ⟨t, hexec, fun k hk => ?_, hpc, hframe⟩
  rw [hread _ (by omega), s.firstV_getElem? hk]

/-! ### A range of registers loaded -/

/-- A register range load leaves the registers past the list, and every other piece of state, as it was. -/
theorem State.unchangedBut_loadV (s : State) (bs : List Byte) :
    UnchangedBut (fun p => ∃ k : Nibble, k.toNat < bs.length ∧ p = .v k) s (s.loadV bs) where
  v r h := by
    rw [State.getV_loadV, List.getD_eq_default]
    exact Nat.le_of_not_lt fun hlt => h ⟨r, hlt, rfl⟩
  i _ := s.loadV_i bs
  pc _ := s.loadV_pc bs
  stk _ _ _ := by simp only [State.loadV_stk]
  sp _ := s.loadV_sp bs
  mem _ _ := by rw [State.loadV_mem]
  fb _ := s.loadV_fb bs
  dt _ := s.loadV_dt bs
  st _ := s.loadV_st bs
  key k _ := s.loadV_keyDown bs k
  kwWait _ := s.loadV_kwWait bs
  kwValid _ := s.loadV_kwValid bs
  kwKey _ := s.loadV_kwKey bs
  latch _ := ⟨s.loadV_halt bs, s.loadV_faultKind bs, s.loadV_faultPc bs, s.loadV_faultOp bs⟩
  draws _ := s.loadV_draws bs

theorem exec_ldVxMem_loads (h : s.i.toNat + (x.toNat + 1) ≤ memSize) :
    ∃ t, exec (.ldVxMem x) s = .next t ∧
      (∀ k : Nibble, k.toNat ≤ x.toNat → s.mem.read? (s.i.toNat + k.toNat) = some (t.getV k)) ∧ t.pc = s.pc + 2#16 ∧
      UnchangedBut (fun p => p = .pc ∨ ∃ k : Nibble, k.toNat ≤ x.toNat ∧ p = .v k) s t := by
  obtain ⟨-, hbytes⟩ | ⟨-, hlt, -⟩ := s.bytesAtI?_cases (x.toNat + 1)
  · refine ⟨_, execLdVxMem_of_bytes hbytes, fun k hk => ?_, s.pc_loadV_advance _, ?_⟩
    · rw [State.advance_getV, State.getV_loadV, Memory.read?_eq_some (by omega)]
      simp [List.getD, Nat.lt_succ_of_le hk]
    · have range := (s.unchangedBut_loadV ((List.range (x.toNat + 1)).map fun k => s.mem.lookup (s.i.toNat + k))).mono
        (w' := fun p => p = .pc ∨ ∃ k : Nibble, k.toNat ≤ x.toNat ∧ p = .v k)
        fun p ⟨k, hk, hp⟩ => .inr ⟨k, by simpa [Nat.lt_succ_iff] using hk, hp⟩
      exact range.trans ((State.unchangedBut_setPc _ _).mono fun _ hp => .inl (List.mem_singleton.mp hp))
  · omega

end

/-! ### Memory after reset -/

/-- A font address reads its font byte after reset, and every later one 0 (20_memory.md R66). -/
theorem read?_reset {a : Nat} (ha : a < memSize) : State.reset.mem.read? a = some (font.getD a 0x00#8) :=
  Memory.read?_eq_some ha

/-! ### The obligations -/

/-- Settles O35: the three digits are one range write, which either fits whole or is not begun. -/
theorem bcdStore : Obligations.BcdStore := by
  unfold Obligations.BcdStore
  have hmem : memSize = 4096 := rfl
  refine ⟨fun x s hwf hi => ?_, fun x s hi => ?_⟩
  · obtain ⟨t, hexec, hread, hpc, hframe⟩ := exec_ldB_stores (x := x) hwf (by omega)
    refine ⟨t, hexec, hread 0 (by decide), hread 1 (by decide), hread 2 (by decide), hpc, hframe.mono ?_⟩
    rintro p (rfl | ⟨j, hj, rfl⟩)
    · exact List.mem_cons_self
    · obtain rfl | rfl | rfl : j = 0 ∨ j = 1 ∨ j = 2 := by omega
      all_goals simp [only]
  · have hbeyond := storeAtI?_of_beyond (s := s) (bcdDigits_ne_nil (s.getV x)) (show memSize < s.i.toNat + 3 by omega)
    exact ⟨_, execLdB_of_beyond hbeyond, s.takesFault_latch _ _⟩

/-- Settles O36: the registers are one range write, which either fits whole or is not begun. -/
theorem registerRangeStore : Obligations.RegisterRangeStore := by
  unfold Obligations.RegisterRangeStore
  have hmem : memSize = 4096 := rfl
  refine ⟨fun x s hwf hi => ?_, fun x s hi => ?_⟩
  · obtain ⟨t, hexec, hread, hpc, hframe⟩ := exec_ldMemVx_stores (x := x) hwf (by omega)
    refine ⟨t, hexec, hread, hpc, hframe.mono ?_⟩
    rintro p (hp | ⟨k, hk, hp⟩)
    · exact .inl hp
    · exact .inr ⟨k, by omega, hp⟩
  · have hbeyond := storeAtI?_of_beyond (s := s) (s.firstV_ne_nil x) (by rw [s.length_firstV x]; omega)
    exact ⟨_, execLdMemVx_of_beyond hbeyond, s.takesFault_latch _ _⟩

/-- Settles O37: the registers are one range load, which either fits whole or is not begun. -/
theorem registerRangeLoad : Obligations.RegisterRangeLoad := by
  unfold Obligations.RegisterRangeLoad
  have hmem : memSize = 4096 := rfl
  refine ⟨fun x s hi => exec_ldVxMem_loads (by omega), fun x s hi => ?_⟩
  obtain ⟨hle, -⟩ | ⟨-, -, hbytes⟩ := s.bytesAtI?_cases (x.toNat + 1)
  · omega
  · exact ⟨_, execLdVxMem_of_beyond hbytes, s.takesFault_latch _ _⟩

/-- Settles O38: the store leaves V0 and V1 at the two addresses that the next fetch reads. -/
theorem storedCodeIsFetched : Obligations.StoredCodeIsFetched := by
  unfold Obligations.StoredCodeIsFetched
  intro x s hwf hx hi hnext hlimit
  have hmem : memSize = 4096 := rfl
  obtain ⟨t, hexec, hread, hpc, -⟩ := exec_ldMemVx_stores (x := x) hwf (by omega)
  have hpc' : t.pc.toNat = s.i.toNat := by rw [hpc, hnext]
  refine ⟨t, hexec, State.fetch_of_read? ?_ ?_ ?_⟩
  · rw [hpc']; exact hlimit
  · rw [hpc']; exact hread 0x0#4 (Nat.zero_le _)
  · rw [hpc']; exact hread 0x1#4 hx

/-- Settles O51: the ROM is one range write from `PROG_BASE` on. -/
theorem loadCopiesRom : Obligations.LoadCopiesRom := by
  unfold Obligations.LoadCopiesRom
  intro rom s hwf hlen
  obtain ⟨m, hwrite, hload⟩ := applyEvent_load_of_fits (s := s) hlen
  refine ⟨_, hload, fun j hj => read?_of_writeBytes? hwf hwrite hj, rfl, rfl, ?_⟩
  have range := (State.unchangedBut_setMem hwf hwrite).mono
    (w' := fun p => p = .kwWait ∨ p = .kwValid ∨ bytesFrom Config.progBase rom.length p) fun _ hp => .inr (.inr hp)
  refine range.trans (((s.setMem m).unchangedBut_kw false false).mono fun p hp => ?_)
  obtain rfl | rfl : p = .kwWait ∨ p = .kwValid := by simpa [only] using hp
  · exact .inl rfl
  · exact .inr (.inl rfl)

/-- Settles O53: the table of reset values, memory by what an unlisted cell reads as. -/
theorem resetInstallsValues : Obligations.ResetInstallsValues := by
  unfold Obligations.ResetInstallsValues
  have hfont : font.length = 80 := rfl
  have hmem : memSize = 4096 := rfl
  intro s
  refine ⟨s.doReset, rfl, fun r => Vector.getElem_replicate _, rfl, rfl, rfl, fun k hk => Vector.getElem_replicate _,
    rfl, rfl, fun a ha => ?_, fun a hlo hhi => ?_, FrameBuffer.pixel_clear, rfl, rfl, fun k => Vector.getElem_replicate _,
    rfl, rfl, rfl, rfl, rfl, rfl, rfl⟩
  · rw [State.doReset_mem, read?_reset (by omega), List.getD_eq_getElem _ _ (by omega), List.getElem?_eq_getElem]
  · rw [State.doReset_mem, read?_reset (by omega), List.getD_eq_default _ _ (by omega)]

end Sys2Proof.Machine
end

section
/-! PROOFS. The sprite compositor (44_display.md): which pixels a DXYN covers, and two equal draws. -/

namespace Sys2Proof.Machine

/-! ### The pixels a sprite hits -/

/-- Coordinates wrap where a pixel is addressed (44_display.md R213). -/
theorem spriteHits_wrap (y x r c : Nat) (bs : List Byte) :
    spriteHits y x (r % 32) (c % 64) bs = spriteHits y x r c bs := by
  rw [Bool.eq_iff_iff, spriteHits_iff, spriteHits_iff]
  simp only [Nat.mod_mod]

/-- The row and column bounds of a pixel hit come for free, since both the sprite and the pixel read wrap. -/
theorem exists_hit_iff {y x : Nat} {bs : List Byte} {fb : FrameBuffer} :
    (∃ r c, r < 32 ∧ c < 64 ∧ spriteHits y x r c bs = true ∧ fb.pixel r c = true) ↔
      ∃ r c, spriteHits y x r c bs = true ∧ fb.pixel r c = true := by
  constructor
  · rintro ⟨r, c, -, -, h⟩
    exact ⟨r, c, h⟩
  · rintro ⟨r, c, hit, lit⟩
    exact ⟨r % 32, c % 64, Nat.mod_lt _ (by decide), Nat.mod_lt _ (by decide), by rwa [spriteHits_wrap],
      by rwa [FrameBuffer.pixel_wrap]⟩

section
variable {s : State} {x y n : Nibble} {sprite : List Byte}

/-- The `k`-th byte of a sprite read through I is the byte at `I + k`. -/
theorem sprite_getElem? (h : s.bytesAtI? n.toNat = some sprite) (k : Nat) :
    sprite[k]? = if k < n.toNat then s.mem.read? (s.i.toNat + k) else none := by
  obtain ⟨hrange, hbytes⟩ | ⟨-, -, hbytes⟩ := s.bytesAtI?_cases n.toNat
  · cases hbytes.symm.trans h
    split
    next hk =>
      have hmem : s.i.toNat + k < memSize := by omega
      simp [Memory.read?_eq_some hmem, hk]
    next hk => simp [Nat.le_of_not_lt hk]
  · cases hbytes.symm.trans h

theorem sprite_length (h : s.bytesAtI? n.toNat = some sprite) : sprite.length = n.toNat := by
  obtain ⟨-, hbytes⟩ | ⟨-, -, hbytes⟩ := s.bytesAtI?_cases n.toNat
  · cases hbytes.symm.trans h
    simp
  · cases hbytes.symm.trans h

theorem sprite_length_le (h : s.bytesAtI? n.toNat = some sprite) : sprite.length ≤ 32 := by
  have := n.isLt
  rw [sprite_length h]
  omega

/-- The pixels a DXYN covers are those its sprite hits. -/
theorem spriteCovers_iff (h : s.bytesAtI? n.toNat = some sprite) {r c : Nat} (hr : r < 32) (hc : c < 64) :
    SpriteCovers s x y n r c ↔ spriteHits (s.getV y).toNat (s.getV x).toNat r c sprite = true := by
  rw [spriteHits_iff, Nat.mod_eq_of_lt hr, Nat.mod_eq_of_lt hc]
  simp only [sprite_getElem? h]
  constructor
  · rintro ⟨k, j, b, hk, hj, hread, hbit, hrow, hcol⟩
    exact ⟨k, j, b, by rwa [if_pos hk], hj, hbit, hrow, hcol⟩
  · rintro ⟨k, j, b, hread, hj, hbit, hrow, hcol⟩
    split at hread
    next hk => exact ⟨k, j, b, hk, hj, hread, hbit, hrow, hcol⟩
    next => cases hread

theorem exists_covered_iff (h : s.bytesAtI? n.toNat = some sprite) :
    (∃ r c, r < 32 ∧ c < 64 ∧ SpriteCovers s x y n r c ∧ s.fb.pixel r c = true) ↔
      (draw (s.getV x) (s.getV y) sprite s.fb).2 = true := by
  rw [draw, drawRows_collides _ _ _ _ (sprite_length_le h)]
  simp only [Bool.false_eq_true, false_or]
  rw [← exists_hit_iff]
  refine exists₂_congr fun r c => and_congr_right fun hr => and_congr_right fun hc => ?_
  rw [spriteCovers_iff h hr hc]

/-- A draw inverts exactly the pixels its sprite hits. -/
theorem draw_pixel (vx vy : Byte) (fb : FrameBuffer) (hl : sprite.length ≤ 32) (r c : Nat) :
    (draw vx vy sprite fb).1.pixel r c = (fb.pixel r c ^^ spriteHits vy.toNat vx.toNat r c sprite) :=
  drawRows_pixel _ _ _ _ r c hl

theorem State.unchangedBut_draw (s : State) (fb : FrameBuffer) (b : Byte) :
    UnchangedBut (only [.fb, .v vf, .pc]) s ((s.setFb fb).setV vf b).advance :=
  have pixels := (s.unchangedBut_setFb fb).only_of_mem (ps := [.fb, .v vf, .pc]) (by simp)
  have flag := ((s.setFb fb).unchangedBut_setV vf b).only_of_mem (ps := [.fb, .v vf, .pc]) (by simp)
  (pixels.trans flag).trans ((State.unchangedBut_setPc _ _).only_of_mem (by simp))

/-- Two frame buffers with the same pixels are one. -/
theorem FrameBuffer.ext_pixel {fb fb' : FrameBuffer} (h : ∀ r c, fb.pixel r c = fb'.pixel r c) : fb = fb' := by
  refine Vector.ext fun r hr => BitVec.eq_of_getMsbD_eq fun c hc => ?_
  simpa only [FrameBuffer.pixel, Nat.mod_eq_of_lt hr, Nat.mod_eq_of_lt hc] using h r c

/-- Each pixel hit is inverted twice. -/
theorem draw_draw (vx vy : Byte) (fb : FrameBuffer) (hl : sprite.length ≤ 32) :
    (draw vx vy sprite (draw vx vy sprite fb).1).1 = fb := by
  refine FrameBuffer.ext_pixel fun r c => ?_
  rw [draw_pixel _ _ _ hl, draw_pixel _ _ _ hl, Bool.xor_assoc, Bool.xor_self, Bool.xor_false]

end

/-! ### The obligations -/

/-- Settles O40: a covered pixel is one the sprite hits, and the collision is a covered pixel that was lit. -/
theorem drawFlipsCoveredPixels : Obligations.DrawFlipsCoveredPixels := by
  unfold Obligations.DrawFlipsCoveredPixels
  have hmem : memSize = 4096 := rfl
  refine ⟨fun x y n s hrange => ?_, fun x y n s hrows hi => ?_⟩
  · obtain ⟨-, hbytes⟩ | ⟨hrows, hlt, -⟩ := s.bytesAtI?_cases n.toNat
    · refine ⟨_, execDrw_of_bytes hbytes, fun r c hr hc => ?_, fun hlit => ?_, fun hdark => ?_, rfl, s.unchangedBut_draw _ _⟩
      · simp only [State.advance_fb, State.setV_fb, State.setFb_fb, draw_pixel _ _ _ (sprite_length_le hbytes),
          spriteCovers_iff hbytes hr hc]
        refine ⟨fun hhit => ?_, fun hmiss => ?_⟩
        · rw [hhit, Bool.xor_true]
        · rw [Bool.not_eq_true] at hmiss
          rw [hmiss, Bool.xor_false]
      · rw [exists_covered_iff hbytes] at hlit
        rw [State.advance_getV, hlit]
        exact State.getV_setV_same _ _ _
      · rw [exists_covered_iff hbytes, Bool.not_eq_true] at hdark
        rw [State.advance_getV, hdark]
        exact State.getV_setV_same _ _ _
    · omega
  · obtain ⟨hle, -⟩ | ⟨-, -, hbytes⟩ := s.bytesAtI?_cases n.toNat
    · omega
    · exact ⟨_, execDrw_of_beyond hbytes, s.takesFault_latch _ _⟩

/-- Settles O41: the second draw restores the buffer, so it turns off exactly what the first one lit. -/
theorem drawTwiceRestores : Obligations.DrawTwiceRestores := by
  unfold Obligations.DrawTwiceRestores
  intro x y sprite fb hlen
  have hl : sprite.length ≤ 32 := Nat.le_trans hlen (by decide)
  refine ⟨draw_draw x y fb hl, ?_⟩
  rw [draw_collides_iff x y _ hl, draw_draw x y fb hl]
  refine exists₂_congr fun r c => and_congr_right fun _ => and_congr_right fun _ => and_comm

end Sys2Proof.Machine
end

section
/-! PROOFS. Runs (47_host_interface.md R266 to R273; 46_input.md R254): a waiting FX0A, the batch `Run(n)`, and runs that a
list of events begins. -/

namespace Sys2Proof.Machine

section
variable {s t u : State} {e : Event} {r : Response}

/-! ### A waiting FX0A (46_input.md R253 to R255) -/

/-- A waiting FX0A with no captured edge steps to itself. -/
theorem step_of_waiting (hinv : s.Inv) (hwait : s.kwWait = true) (hvalid : s.kwValid = false) : step s = .next s := by
  obtain ⟨hrun, op, x, hfetch, hdec⟩ := hinv.waiting hwait
  rw [step_of_decode hrun hfetch hdec]
  obtain ⟨hidle, -⟩ | ⟨-, -, h⟩ | ⟨-, hcaptured, -⟩ := execLdVxK_cases x s
  · exact absurd (hidle.symm.trans hwait) (by decide)
  · exact h
  · exact absurd (hvalid.symm.trans hcaptured) (by decide)

/-- The timers and the keys. -/
def timersAndKeys (p : Part) : Prop := p = .dt ∨ p = .st ∨ ∃ k, p = .key k

theorem unchangedBut_refl (w : Part → Prop) (s : State) : UnchangedBut w s s where
  v _ _ := rfl
  i _ := rfl
  pc _ := rfl
  stk _ _ _ := rfl
  sp _ := rfl
  mem _ _ := rfl
  fb _ := rfl
  dt _ := rfl
  st _ := rfl
  key _ _ := rfl
  kwWait _ := rfl
  kwValid _ := rfl
  kwKey _ := rfl
  latch _ := ⟨rfl, rfl, rfl, rfl⟩
  draws _ := rfl

theorem tick_timersAndKeys (s : State) : UnchangedBut timersAndKeys s (tick s) :=
  (unchangedBut_tick s).mono fun p hp => by
    obtain rfl | rfl : p = .dt ∨ p = .st := by simpa [only] using hp
    · exact .inl rfl
    · exact .inr (.inl rfl)

theorem setKey_timersAndKeys (s : State) (k : Nibble) (d : Bool) : UnchangedBut timersAndKeys s (s.setKey k d) :=
  (s.unchangedBut_setKey k d).mono fun _ hp => .inr (.inr ⟨k, List.mem_singleton.mp hp⟩)

/-- A press writes the arbiter's latch only to capture the first edge. -/
theorem press_timersAndKeys (k : Nibble) (hvalid : s.kwValid = true) : UnchangedBut timersAndKeys s (press k s) := by
  obtain h | h | ⟨-, hnone, -⟩ := press_cases k s
  · rw [h]; exact unchangedBut_refl _ s
  · rw [h]; exact setKey_timersAndKeys s k true
  · exact absurd (hvalid.symm.trans hnone) (by decide)

/-- Once a key is captured, ticks, presses and releases move the timers and the keys alone. -/
theorem timersAndKeys_of_captured (he : e = .tick ∨ (∃ k, e = .press k) ∨ ∃ k, e = .release k) (hvalid : s.kwValid = true)
    (h : applyEvent e s = .next (t, r)) : UnchangedBut timersAndKeys s t := by
  obtain rfl | ⟨k, rfl⟩ | ⟨k, rfl⟩ := he
  · cases h; exact tick_timersAndKeys s
  · cases h; exact press_timersAndKeys k hvalid
  · cases h; exact setKey_timersAndKeys s k false

theorem UnchangedBut.fetch_eq (h : UnchangedBut timersAndKeys s t) : t.fetch = s.fetch :=
  State.fetch_congr (h.pc (by simp [timersAndKeys])) fun a => h.mem a (by simp [timersAndKeys])

/-- The step that delivers the captured key. -/
theorem step_of_captured {op : Word} {x : Nibble} (hwait : s.kwWait = true) (hvalid : s.kwValid = true)
    (hrun : s.halt = false) (hfetch : s.fetch = some op) (hdec : decode op = .ok (.ldVxK x)) :
    step s = .next ((s.setV x (zextNibble s.kwKey)).disarm).advance := by
  rw [step_of_decode hrun hfetch hdec]
  obtain ⟨hidle, -⟩ | ⟨-, hnone, -⟩ | ⟨-, -, h⟩ := execLdVxK_cases x s
  · exact absurd (hidle.symm.trans hwait) (by decide)
  · exact absurd (hnone.symm.trans hvalid) (by decide)
  · exact h

/-- What every step of a fold in `Option` keeps holds at its end. -/
theorem foldlM_keeps {α β : Type} {f : β → α → Option β} {P : β → Prop} {l : List α}
    (hf : ∀ b a b', a ∈ l → P b → f b a = some b' → P b') {b b' : β} (hb : P b) (h : l.foldlM f b = some b') : P b' := by
  induction l generalizing b with
  | nil => cases h; exact hb
  | cons a l ih =>
    obtain ⟨b₁, h₁, h₂⟩ := Option.bind_eq_some_iff.mp h
    exact ih (fun b a b' ha => hf b a b' (List.mem_cons_of_mem _ ha)) (hf b a b₁ List.mem_cons_self hb h₁) h₂

/-- Settles O47: FX0A's middle case, at the FX0A that the invariant puts at PC. -/
theorem waitNeedsCapturedEdge : Obligations.WaitNeedsCapturedEdge := by
  unfold Obligations.WaitNeedsCapturedEdge
  intro s
  exact step_of_waiting

/-- Settles O50: the events before the step move the timers and the keys alone, so the step delivers the key captured first. -/
theorem firstCapturedKeyIsDelivered : Obligations.FirstCapturedKeyIsDelivered := by
  unfold Obligations.FirstCapturedKeyIsDelivered
  intro es op x s t hwait hvalid hrun hfetch hdec hes hfold
  have hframe : UnchangedBut timersAndKeys s t := by
    refine foldlM_keeps (fun u e u' he hu hstep => ?_) (unchangedBut_refl _ s) hfold
    split at hstep
    next u'' r happly =>
      cases hstep
      have hvalid' : u.kwValid = true := (hu.kwValid (by simp [timersAndKeys])).trans hvalid
      exact hu.trans (timersAndKeys_of_captured (hes e he) hvalid' happly)
    next => cases hstep
  have hwait' := (hframe.kwWait (by simp [timersAndKeys])).trans hwait
  have hvalid' := (hframe.kwValid (by simp [timersAndKeys])).trans hvalid
  have hkey : t.kwKey = s.kwKey := hframe.kwKey (by simp [timersAndKeys])
  have hpc : t.pc = s.pc := hframe.pc (by simp [timersAndKeys])
  obtain ⟨hhalt, -⟩ := hframe.latch (by simp [timersAndKeys])
  refine ⟨_, step_of_captured hwait' hvalid' (hhalt.trans hrun) (hframe.fetch_eq.trans hfetch) hdec, ?_, ?_⟩
  · rw [State.advance_getV, State.disarm_getV, State.getV_setV_same, hkey]
    exact BitVec.toNat_setWidth_of_le (by decide)
  · rw [State.advance_pc, State.disarm_pc, State.setV_pc, hpc]

/-! ### A wait with no key pressed -/

/-- The machine waits at an FX0A with no captured edge. -/
structure WaitsIdle (s : State) : Prop where
  inv : s.Inv
  wait : s.kwWait = true
  valid : s.kwValid = false

/-- What an event does to a wait when it presses no key, loads nothing and does not reset: nothing, a tick or a release. -/
theorem applyEvent_of_waitsIdle (hs : WaitsIdle s) (hpress : ∀ k, e ≠ .press k) (hload : ∀ rom, e ≠ .load rom)
    (hreset : e ≠ .reset) (h : applyEvent e s = .next (t, r)) : t = s ∨ t = tick s ∨ ∃ k, t = release k s := by
  cases e with
  | reset => exact absurd rfl hreset
  | load rom => exact absurd rfl (hload rom)
  | press k => exact absurd rfl (hpress k)
  | step =>
    cases (step_of_waiting hs.inv hs.wait hs.valid).symm.trans (step_of_applyEvent h)
    exact .inl rfl
  | tick => cases h; exact .inr (.inl rfl)
  | release k => cases h; exact .inr (.inr ⟨k, rfl⟩)
  | readDisplay | readRegisters => cases h; exact .inl rfl

end

section
variable {sched : Nat → Event} {trace : Nat → State} (hrun : IsRun sched trace) (h0 : WaitsIdle (trace 0))
  (hquiet : ∀ n, (∀ k, sched n ≠ .press k) ∧ (∀ rom, sched n ≠ .load rom) ∧ sched n ≠ .reset)
include hrun h0 hquiet

/-- The wait goes on for ever, and moves the timers and the keys alone. -/
theorem waits_forever (n : Nat) : WaitsIdle (trace n) ∧ UnchangedBut timersAndKeys (trace 0) (trace n) := by
  refine hrun.induction (P := fun s => WaitsIdle s ∧ UnchangedBut timersAndKeys (trace 0) s) ⟨h0, unchangedBut_refl _ _⟩
    (fun n t r hn h => ?_) n
  obtain ⟨hidle, hframe⟩ := hn
  obtain ⟨hpress, hload, hreset⟩ := hquiet n
  have hinv : t.Inv := applyEvent_inv hidle.inv h
  obtain rfl | rfl | ⟨k, rfl⟩ := applyEvent_of_waitsIdle hidle hpress hload hreset h
  · exact ⟨hidle, hframe⟩
  · exact ⟨⟨hinv, hidle.wait, hidle.valid⟩, hframe.trans (tick_timersAndKeys _)⟩
  · exact ⟨⟨hinv, hidle.wait, hidle.valid⟩, hframe.trans (setKey_timersAndKeys _ k false)⟩

/-- Along such a wait no event raises a timer, and a tick lowers both. -/
theorem timers_along_wait (n : Nat) :
    ((trace (n + 1)).dt.toNat ≤ (trace n).dt.toNat ∧ (trace (n + 1)).st.toNat ≤ (trace n).st.toNat) ∧
    (sched n = .tick → (trace (n + 1)).dt.toNat = (trace n).dt.toNat - 1 ∧
      (trace (n + 1)).st.toNat = (trace n).st.toNat - 1) := by
  have hdt := decrement_toNat (trace n).dt
  have hst := decrement_toNat (trace n).st
  obtain ⟨r, h⟩ := hrun n
  obtain ⟨hpress, hload, hreset⟩ := hquiet n
  constructor
  · obtain e | e | ⟨k, e⟩ := applyEvent_of_waitsIdle (waits_forever hrun h0 hquiet n).1 hpress hload hreset h <;> rw [e]
    · exact ⟨le_rfl, le_rfl⟩
    · exact ⟨hdt.trans_le (Nat.sub_le _ _), hst.trans_le (Nat.sub_le _ _)⟩
    · exact ⟨le_rfl, le_rfl⟩
  · intro htick
    rw [htick] at h
    have e : tick (trace n) = trace (n + 1) := (Prod.mk.inj (Host.Outcome.next.inj h)).1
    rw [← e]
    exact ⟨hdt, hst⟩

end

/-- Settles O60: the wait goes on by its own invariant, and fairness of the ticks brings each timer to 0. -/
theorem waitingTimersRunOut : Obligations.WaitingTimersRunOut := by
  unfold Obligations.WaitingTimersRunOut
  intro sched trace hrun hfair hinv hwait hvalid hquiet
  have h0 : WaitsIdle (trace 0) := ⟨hinv, hwait, hvalid⟩
  refine ⟨fun n => (waits_forever hrun h0 hquiet n).2, ?_⟩
  have htimers := timers_along_wait hrun h0 hquiet
  obtain ⟨n, hdt⟩ := hfair.reaches_zero (f := fun n => (trace n).dt.toNat) (fun n => (htimers n).1.1)
    fun n htick => ((htimers n).2 htick).1
  obtain ⟨n', hst⟩ := hfair.reaches_zero (f := fun n => (trace n).st.toNat) (fun n => (htimers n).1.2)
    fun n htick => ((htimers n).2 htick).2
  refine ⟨max n n', fun m hm => ⟨?_, ?_⟩⟩
  · exact BitVec.eq_of_toNat_eq (hdt m (Nat.le_trans (Nat.le_max_left _ _) hm))
  · exact BitVec.eq_of_toNat_eq (hst m (Nat.le_trans (Nat.le_max_right _ _) hm))

/-! ### The batch (47_host_interface.md R273) -/

section
variable {s t u : State}

theorem coreRun_succ (M : Host.Core) {s t : M.State} (h : M.step s = .next t) (k : Nat) : M.run (k + 1) s = M.run k t := by
  rw [Host.Core.run, h]

theorem core_run_succ (h : step s = .next t) (k : Nat) : core.run (k + 1) s = core.run k t := coreRun_succ core h k

theorem run_succ_of_running (h : step s = .next t) (hrun : t.halt = false) (n : Nat) : run (n + 1) s = run n t := by
  simp [run, h, hrun]

theorem run_succ_of_halted (h : step s = .next t) (hhalt : t.halt = true) (n : Nat) :
    run (n + 1) s = .next (t, t.stepResult) := by
  simp [run, h, hhalt]

/-- `Run(n)` from `s` took `k` steps to `t`: at most `n`, fewer only at a halt, and no halt before the last. -/
structure RunTakes (n k : Nat) (s t : State) : Prop where
  result : run n s = .next (t, t.stepResult)
  le : k ≤ n
  steps : core.run k s = .next t
  early : k < n → t.halt = true
  running : ∀ j u, 0 < j → j < k → core.run j s = .next u → u.halt = false

theorem runTakes_zero (s : State) : RunTakes 0 0 s s :=
  ⟨rfl, le_rfl, rfl, fun h => absurd h (lt_irrefl 0), fun _ _ _ h => absurd h (Nat.not_lt_zero _)⟩

theorem runTakes_of_halted (n : Nat) (h : step s = .next t) (hhalt : t.halt = true) : RunTakes (n + 1) 1 s t where
  result := run_succ_of_halted h hhalt n
  le := Nat.le_add_left 1 n
  steps := core_run_succ h 0
  early _ := hhalt
  running j _ hpos hlt := absurd hpos (by omega)

/-- One more step in front of a batch, from a step that does not halt. -/
theorem RunTakes.cons {n k : Nat} (h : step s = .next u) (hrun : u.halt = false) (hu : RunTakes n k u t) :
    RunTakes (n + 1) (k + 1) s t where
  result := (run_succ_of_running h hrun n).trans hu.result
  le := Nat.succ_le_succ hu.le
  steps := (core_run_succ h k).trans hu.steps
  early hlt := hu.early (Nat.lt_of_succ_lt_succ hlt)
  running j w hpos hlt hj := by
    obtain ⟨j, rfl⟩ := Nat.exists_eq_succ_of_ne_zero hpos.ne'
    rw [Nat.succ_eq_add_one, core_run_succ h] at hj
    cases j with
    | zero => cases hj; exact hrun
    | succ j => exact hu.running (j + 1) w (Nat.succ_pos j) (by omega) hj

theorem exists_runTakes (n : Nat) (s : State) : ∃ t k, RunTakes n k s t := by
  induction n generalizing s with
  | zero => exact ⟨s, 0, runTakes_zero s⟩
  | succ n ih =>
    obtain ⟨u, hstep⟩ := step_total s
    cases hhalt : u.halt
    · obtain ⟨t, k, ht⟩ := ih u
      exact ⟨t, k + 1, ht.cons hstep hhalt⟩
    · exact ⟨u, 1, runTakes_of_halted n hstep hhalt⟩

end

/-- Settles O56: by induction on the bound, one step in front of the rest of the batch. -/
theorem runIsBoundedSteps : Obligations.RunIsBoundedSteps := by
  unfold Obligations.RunIsBoundedSteps
  intro n s
  obtain ⟨t, k, h⟩ := exists_runTakes n s
  exact ⟨t, k, h.result, h.le, h.steps, h.early, h.running⟩

/-! ### The run that a list of events begins (47_host_interface.md R266, R268) -/

/-- The events of the list, then ticks for ever. -/
def thenTicks (es : List Event) (n : Nat) : Event := es.getD n .tick

/-- The state an event leaves. -/
def stateAfter (e : Event) (s : State) : State :=
  match applyEvent e s with
  | .next (t, _) => t
  | .fault _ | .refused _ => s

/-- The states a schedule leads through from `s`. -/
def traceFrom (sched : Nat → Event) (s : State) : Nat → State
  | 0 => s
  | n + 1 => stateAfter (sched n) (traceFrom sched s n)

theorem applyEvent_stateAfter (e : Event) (s : State) : ∃ r, applyEvent e s = .next (stateAfter e s, r) := by
  obtain ⟨t, r, h⟩ := applyEvent_total e s
  exact ⟨r, by rw [stateAfter, h]⟩

theorem traceFrom_isRun (sched : Nat → Event) (s : State) : IsRun sched (traceFrom sched s) :=
  fun n => applyEvent_stateAfter (sched n) (traceFrom sched s n)

theorem thenTicks_fair (es : List Event) : TickFair (thenTicks es) :=
  fun n => ⟨max n es.length, Nat.le_max_left _ _, List.getD_eq_default _ _ (Nat.le_max_right _ _)⟩

theorem thenTicks_of_lt {es : List Event} {n : Nat} (h : n < es.length) : thenTicks es n = es[n] :=
  List.getD_eq_getElem _ _ h

theorem map_range_thenTicks (es : List Event) : (List.range es.length).map (thenTicks es) = es :=
  List.ext_getElem (by simp) fun n _ h => by simp [thenTicks_of_lt h]

/-- Settles O58: the list's events and then ticks for ever, through the states they leave. -/
theorem finiteRunsExtendFairly : Obligations.FiniteRunsExtendFairly := by
  unfold Obligations.FiniteRunsExtendFairly
  intro es s
  have hrun := traceFrom_isRun (thenTicks es) s
  refine ⟨traceFrom (thenTicks es) s es.length, thenTicks es, traceFrom (thenTicks es) s, ?_, hrun, thenTicks_fair es, rfl,
    fun n h => thenTicks_of_lt h, rfl⟩
  have hevents := hrun.runEvents_range es.length
  rwa [map_range_thenTicks] at hevents

end Sys2Proof.Machine
end
